-- ==== Sys2Proof/Word.lean ====
section
/-! DEFINITION. The words of LANE-1: bytes, the command word, the 256-bit operand and result buses, and lane vectors. -/

namespace Sys2Proof

/-- A byte: a `u8` lane, a payload byte. -/
abbrev Byte := BitVec 8

/-- The 32-bit command word CMD (R21, R60). -/
abbrev Cmd := BitVec 32

/-- One of the 256-bit buses A, B and R (R21, R22). -/
abbrev Bus := BitVec 256

/-- A lane vector of `n` lanes of `w` bits, lane 0 first (R13); `uWxN` has `w` = 8 or 16, and `bxN` is the case `w` = 1, where
the lane's one bit is 1 for true. Lane vectors are values inside one transaction, never state (R32). -/
abbrev Lanes (n w : Nat) := Fin n → BitVec w

end Sys2Proof
end

