-- ==== Sys2Proof/Config.lean ====
section
/-! DEFINITION. What an implementation fixes: the one numeric parameter the spec leaves OPEN (R10, D16, K14). -/

namespace Sys2Proof

/-- `B64_MAX_LEN`, the largest payload length a `B64DECODE` request may carry, 0 to 65535 (R10, D16). It has no body: whatever
is proved holds for every value of it (log 4). -/
opaque Config.b64MaxLen : BitVec 16

end Sys2Proof
end

