-- ==== Sys2Proof/Syntax.lean ====
section
/-! DEFINITION. The commands of LANE-1, one constructor per row of spec/opcode_table.json. The shape codes and operation codes
of the command word are names here (R62 to R64); an operand that R66 does not give a command has no place in its constructor. -/

namespace Sys2Proof

/-- The lane count of a vector operand: codes 0, 1, 2 of NA and NB (R8, R63). -/
inductive LaneCount where
  | n4 | n8 | n16
  deriving DecidableEq, Repr

/-- The element type of an integer vector: codes 0 and 1 of EA and EB (R9, R64). -/
inductive LaneWidth where
  | u8 | u16
  deriving DecidableEq, Repr

/-- The element type of a vector that may be boolean: codes 0, 1, 2 of EA (R9, R64). -/
inductive ElemType where
  | u8 | u16 | bool
  deriving DecidableEq, Repr

/-- A command (R62). `n`, `w` and `e` are the lane count and element type of operand A; `imm` is the 16-bit unsigned scalar of
the commands that have one (R65). -/
inductive Instr where
  -- shifts (40_shift.md)
  | shr (n : LaneCount) (w : LaneWidth) (imm : BitVec 16)
  | shrv (n : LaneCount) (w : LaneWidth)
  | shl (n : LaneCount) (w : LaneWidth) (imm : BitVec 16)
  | shlv (n : LaneCount) (w : LaneWidth)
  | shrw (n : LaneCount) (imm : BitVec 16)
  | shrwv (n : LaneCount)
  | shlw (n : LaneCount) (imm : BitVec 16)
  | shlwv (n : LaneCount)
  -- gather and lane permutation (41_swizzle_rotate.md); the table has shape (n, w), the index vector (m, x)
  | swizzle (n : LaneCount) (w : LaneWidth) (m : LaneCount) (x : LaneWidth)
  | rotate (n : LaneCount) (e : ElemType) (imm : BitVec 16)
  -- compare (42_compare.md)
  | cmpeq (n : LaneCount) (w : LaneWidth) (imm : BitVec 16)
  -- reductions (43_reduce.md)
  | ror (n : LaneCount) (e : ElemType)
  | rall (n : LaneCount)
  | rany (n : LaneCount)
  | rsum (n : LaneCount) (e : ElemType)
  | mask (n : LaneCount)
  | ffs (n : LaneCount)
  -- elementwise helpers (44_elementwise.md)
  | add (n : LaneCount) (w : LaneWidth)
  | sub (n : LaneCount) (w : LaneWidth)
  | subs (n : LaneCount) (w : LaneWidth) (imm : BitVec 16)
  | muls (n : LaneCount) (w : LaneWidth) (imm : BitVec 16)
  | and (n : LaneCount) (e : ElemType)
  | ands (n : LaneCount) (w : LaneWidth) (imm : BitVec 16)
  | or (n : LaneCount) (e : ElemType)
  | not (n : LaneCount) (e : ElemType)
  | cmpgtu (n : LaneCount) (w : LaneWidth) (imm : BitVec 16)
  | btou (n : LaneCount)
  | widen (n : LaneCount)
  | narrow (n : LaneCount)
  -- pipelines (45_base64.md, 46_ipv4.md)
  | b64chunk
  | b64decode (len : BitVec 16)
  | ip4parse (len : BitVec 16)
  deriving DecidableEq, Repr

end Sys2Proof
end

