-- ==== Sys2Proof/WellFormed.lean ====
section
/-! DEFINITION. Which terms of `Instr` are legal commands. The syntax leaves one check: the length of a `B64DECODE` payload is
at most B64_MAX_LEN (R73). Every other legality rule (R70 to R73) concerns codes that no term of `Instr` can carry. -/

namespace Sys2Proof

/-- Legality of a command when B64_MAX_LEN is `maxLen` (R73). -/
def Instr.wellFormedUnder (maxLen : BitVec 16) : Instr → Bool
  | .b64decode len => decide (len.toNat ≤ maxLen.toNat)
  | .shr .. | .shrv .. | .shl .. | .shlv .. | .shrw .. | .shrwv .. | .shlw .. | .shlwv .. => true
  | .swizzle .. | .rotate .. | .cmpeq .. => true
  | .ror .. | .rall .. | .rany .. | .rsum .. | .mask .. | .ffs .. => true
  | .add .. | .sub .. | .subs .. | .muls .. | .and .. | .ands .. | .or .. | .not .. => true
  | .cmpgtu .. | .btou .. | .widen .. | .narrow .. => true
  | .b64chunk | .ip4parse .. => true

/-- Legality of a command in this implementation (R73, R74). -/
abbrev Instr.WellFormed (i : Instr) : Prop := i.wellFormedUnder Config.b64MaxLen = true

end Sys2Proof
end

