-- ==== Sys2Proof/Decode.lean ====
section
/-! DEFINITION. Decoding and encoding of the command word (30_encoding.md): the fields of format C (R61), the decoder (R62 to
R75), and the encoder written from the same tables. -/

namespace Sys2Proof

/-- The fields of format C (R61). -/
structure Fields where
  opc : BitVec 8
  na : BitVec 2
  ea : BitVec 2
  nb : BitVec 2
  eb : BitVec 2
  imm : BitVec 16
  deriving DecidableEq, Repr

/-- Why a command word is illegal. The hardware reports none of these names (R301: no cause sub-code), so the order in which
the decoder looks for them is not observable (R74; log 8). -/
inductive DecodeError where
  /-- OPC is not one of the 32 codes (R70). -/
  | undefinedOpcode
  /-- NA is 3, or EA is a type the command does not accept (R71). -/
  | reservedShape
  /-- NB or EB is not 0, or is reserved for `SWIZZLE` (R72). -/
  | operandBShape
  /-- IMM is not 0 in a command without a scalar operand (R73). -/
  | unusedImmediate
  /-- The payload length of `B64DECODE` is above B64_MAX_LEN (R73). -/
  | payloadTooLong
  deriving DecidableEq, Repr

/-- The fields of a command word, at the bit positions of R61. -/
def fieldsOf (cmd : Cmd) : Fields where
  opc := cmd.extractLsb' 0 8
  na := cmd.extractLsb' 8 2
  ea := cmd.extractLsb' 10 2
  nb := cmd.extractLsb' 12 2
  eb := cmd.extractLsb' 14 2
  imm := cmd.extractLsb' 16 16

/-- The command word with the given fields (R61). -/
def wordOf (f : Fields) : Cmd := f.imm ++ f.eb ++ f.nb ++ f.ea ++ f.na ++ f.opc

/-- Lane-count codes (R63); code 3 is reserved, with the error `e`. -/
def laneCountOf (e : DecodeError) (code : BitVec 2) : Except DecodeError LaneCount :=
  match code.toNat with
  | 0 => .ok .n4
  | 1 => .ok .n8
  | 2 => .ok .n16
  | _ => .error e

/-- Element-type codes of a command that takes integer lanes only (R64, R66). -/
def laneWidthOf (e : DecodeError) (code : BitVec 2) : Except DecodeError LaneWidth :=
  match code.toNat with
  | 0 => .ok .u8
  | 1 => .ok .u16
  | _ => .error e

/-- Element-type codes of a command that takes every lane type (R64, R66). -/
def elemTypeOf (code : BitVec 2) : Except DecodeError ElemType :=
  match code.toNat with
  | 0 => .ok .u8
  | 1 => .ok .u16
  | 2 => .ok .bool
  | _ => .error .reservedShape

/-- Passes when the check holds, and is the error `e` otherwise. -/
def require (check : Bool) (e : DecodeError) : Except DecodeError Unit :=
  if check then .ok () else .error e

/-- NB and EB must be 0 (R72). -/
def noShapeB (f : Fields) : Except DecodeError Unit := require (f.nb == 0 && f.eb == 0) .operandBShape

/-- IMM must be 0 (R73). -/
def noImm (f : Fields) : Except DecodeError Unit := require (f.imm == 0) .unusedImmediate

/-- Operand A of integer lanes: NA and EA (R71). -/
def wordShape (f : Fields) : Except DecodeError (LaneCount × LaneWidth) := do
  let n ← laneCountOf .reservedShape f.na
  let w ← laneWidthOf .reservedShape f.ea
  return (n, w)

/-- Operand A of any lane type: NA and EA (R71). -/
def anyShape (f : Fields) : Except DecodeError (LaneCount × ElemType) := do
  let n ← laneCountOf .reservedShape f.na
  let e ← elemTypeOf f.ea
  return (n, e)

/-- Operand A of the one element type whose code is `ea`: NA, with EA checked (R71). -/
def fixedShape (ea : BitVec 2) (f : Fields) : Except DecodeError LaneCount := do
  let n ← laneCountOf .reservedShape f.na
  require (f.ea == ea) .reservedShape
  return n

/-- Decoding of the fields of a command word when B64_MAX_LEN is `maxLen`: the opcode map of R62 with the legality rules
R70 to R73. -/
def decodeFields (maxLen : BitVec 16) (f : Fields) : Except DecodeError Instr :=
  match f.opc.toNat with
  | 0x01 => do let (n, w) ← wordShape f; noShapeB f; return .shr n w f.imm
  | 0x02 => do let (n, w) ← wordShape f; noShapeB f; noImm f; return .shrv n w
  | 0x03 => do let (n, w) ← wordShape f; noShapeB f; return .shl n w f.imm
  | 0x04 => do let (n, w) ← wordShape f; noShapeB f; noImm f; return .shlv n w
  | 0x05 => do let n ← fixedShape 0 f; noShapeB f; return .shrw n f.imm
  | 0x06 => do let n ← fixedShape 0 f; noShapeB f; noImm f; return .shrwv n
  | 0x07 => do let n ← fixedShape 0 f; noShapeB f; return .shlw n f.imm
  | 0x08 => do let n ← fixedShape 0 f; noShapeB f; noImm f; return .shlwv n
  | 0x10 => do
    let (n, w) ← wordShape f
    let m ← laneCountOf .operandBShape f.nb
    let x ← laneWidthOf .operandBShape f.eb
    noImm f
    return .swizzle n w m x
  | 0x11 => do let (n, e) ← anyShape f; noShapeB f; return .rotate n e f.imm
  | 0x18 => do let (n, w) ← wordShape f; noShapeB f; return .cmpeq n w f.imm
  | 0x20 => do let (n, e) ← anyShape f; noShapeB f; noImm f; return .ror n e
  | 0x21 => do let n ← fixedShape 2 f; noShapeB f; noImm f; return .rall n
  | 0x22 => do let n ← fixedShape 2 f; noShapeB f; noImm f; return .rany n
  | 0x23 => do let (n, e) ← anyShape f; noShapeB f; noImm f; return .rsum n e
  | 0x24 => do let n ← fixedShape 2 f; noShapeB f; noImm f; return .mask n
  | 0x25 => do let n ← fixedShape 2 f; noShapeB f; noImm f; return .ffs n
  | 0x30 => do let (n, w) ← wordShape f; noShapeB f; noImm f; return .add n w
  | 0x31 => do let (n, w) ← wordShape f; noShapeB f; noImm f; return .sub n w
  | 0x32 => do let (n, w) ← wordShape f; noShapeB f; return .subs n w f.imm
  | 0x33 => do let (n, w) ← wordShape f; noShapeB f; return .muls n w f.imm
  | 0x34 => do let (n, e) ← anyShape f; noShapeB f; noImm f; return .and n e
  | 0x35 => do let (n, w) ← wordShape f; noShapeB f; return .ands n w f.imm
  | 0x36 => do let (n, e) ← anyShape f; noShapeB f; noImm f; return .or n e
  | 0x37 => do let (n, e) ← anyShape f; noShapeB f; noImm f; return .not n e
  | 0x38 => do let (n, w) ← wordShape f; noShapeB f; return .cmpgtu n w f.imm
  | 0x39 => do let n ← fixedShape 2 f; noShapeB f; noImm f; return .btou n
  | 0x3A => do let n ← fixedShape 0 f; noShapeB f; noImm f; return .widen n
  | 0x3B => do let n ← fixedShape 1 f; noShapeB f; noImm f; return .narrow n
  | 0x40 => do require (f.na == 0 && f.ea == 0) .reservedShape; noShapeB f; noImm f; return .b64chunk
  | 0x41 => do
    require (f.na == 0 && f.ea == 0) .reservedShape
    noShapeB f
    if maxLen.toNat < f.imm.toNat then .error .payloadTooLong else return .b64decode f.imm
  | 0x48 => do require (f.na == 2 && f.ea == 0) .reservedShape; noShapeB f; return .ip4parse f.imm
  | _ => .error .undefinedOpcode

/-- The decoder when B64_MAX_LEN is `maxLen`. -/
def decodeUnder (maxLen : BitVec 16) (cmd : Cmd) : Except DecodeError Instr := decodeFields maxLen (fieldsOf cmd)

/-- The decoder: the same function of CMD in every transaction (R74, R75). -/
def decode (cmd : Cmd) : Except DecodeError Instr := decodeUnder Config.b64MaxLen cmd

/-- The instruction the decoder reads from a table word of `nbits` bits; CMD is one 32-bit word, so there are no bytes to lay
out (R60). -/
def decodeTableWord (nbits w : Nat) : Option Instr := (decode (BitVec.ofNat 32 (w % 2 ^ nbits))).toOption

/-- The code of a lane count (R63). -/
def LaneCount.code : LaneCount → BitVec 2
  | .n4 => 0
  | .n8 => 1
  | .n16 => 2

/-- The code of an integer element type (R64). -/
def LaneWidth.code : LaneWidth → BitVec 2
  | .u8 => 0
  | .u16 => 1

/-- The code of an element type (R64). -/
def ElemType.code : ElemType → BitVec 2
  | .u8 => 0
  | .u16 => 1
  | .bool => 2

/-- The fields of a command's word (R61 to R66): unused fields are 0. -/
def fieldsOfInstr : Instr → Fields
  | .shr n w imm => ⟨0x01, n.code, w.code, 0, 0, imm⟩
  | .shrv n w => ⟨0x02, n.code, w.code, 0, 0, 0⟩
  | .shl n w imm => ⟨0x03, n.code, w.code, 0, 0, imm⟩
  | .shlv n w => ⟨0x04, n.code, w.code, 0, 0, 0⟩
  | .shrw n imm => ⟨0x05, n.code, 0, 0, 0, imm⟩
  | .shrwv n => ⟨0x06, n.code, 0, 0, 0, 0⟩
  | .shlw n imm => ⟨0x07, n.code, 0, 0, 0, imm⟩
  | .shlwv n => ⟨0x08, n.code, 0, 0, 0, 0⟩
  | .swizzle n w m x => ⟨0x10, n.code, w.code, m.code, x.code, 0⟩
  | .rotate n e imm => ⟨0x11, n.code, e.code, 0, 0, imm⟩
  | .cmpeq n w imm => ⟨0x18, n.code, w.code, 0, 0, imm⟩
  | .ror n e => ⟨0x20, n.code, e.code, 0, 0, 0⟩
  | .rall n => ⟨0x21, n.code, 2, 0, 0, 0⟩
  | .rany n => ⟨0x22, n.code, 2, 0, 0, 0⟩
  | .rsum n e => ⟨0x23, n.code, e.code, 0, 0, 0⟩
  | .mask n => ⟨0x24, n.code, 2, 0, 0, 0⟩
  | .ffs n => ⟨0x25, n.code, 2, 0, 0, 0⟩
  | .add n w => ⟨0x30, n.code, w.code, 0, 0, 0⟩
  | .sub n w => ⟨0x31, n.code, w.code, 0, 0, 0⟩
  | .subs n w imm => ⟨0x32, n.code, w.code, 0, 0, imm⟩
  | .muls n w imm => ⟨0x33, n.code, w.code, 0, 0, imm⟩
  | .and n e => ⟨0x34, n.code, e.code, 0, 0, 0⟩
  | .ands n w imm => ⟨0x35, n.code, w.code, 0, 0, imm⟩
  | .or n e => ⟨0x36, n.code, e.code, 0, 0, 0⟩
  | .not n e => ⟨0x37, n.code, e.code, 0, 0, 0⟩
  | .cmpgtu n w imm => ⟨0x38, n.code, w.code, 0, 0, imm⟩
  | .btou n => ⟨0x39, n.code, 2, 0, 0, 0⟩
  | .widen n => ⟨0x3A, n.code, 0, 0, 0, 0⟩
  | .narrow n => ⟨0x3B, n.code, 1, 0, 0, 0⟩
  | .b64chunk => ⟨0x40, 0, 0, 0, 0, 0⟩
  | .b64decode len => ⟨0x41, 0, 0, 0, 0, len⟩
  | .ip4parse len => ⟨0x48, 2, 0, 0, 0, len⟩

/-- The command word of a command. -/
def encode (i : Instr) : Cmd := wordOf (fieldsOfInstr i)

/-- How many payload bytes a request with this command word carries: L = IMM for a word whose OPC, NA, EA, NB and EB are those
of `B64DECODE`, and none for every other word (R26, R220, R346; log 5). -/
def payloadLength (cmd : Cmd) : Nat := if cmd.extractLsb' 0 16 = 0x0041#16 then (cmd.extractLsb' 16 16).toNat else 0

end Sys2Proof
end

