-- ==== Sys2Proof/Machine/State.lean ====
section
/-! DEFINITION. The state of the block and of the host beside it. The block itself holds nothing between transactions (R28 to
R36): its state is the transaction in flight and the response pending. There is no register, program counter, flag, control
register, mode or memory (R28 to R33, R40). -/

namespace Sys2Proof.Machine

/-- The STATUS of a response (R23). The codes 2 and 3 are never produced, so the type has two values (K12). -/
inductive Status where
  /-- The command was legal and R holds its result: code 0. -/
  | ok
  /-- The command word is not a legal command: code 1. -/
  | illegal
  deriving DecidableEq, Repr

/-- A request (R21): the command word, the two operand buses, and the payload that a `B64DECODE` request carries (R26). The
payload has the length its command word says (R346); another length is outside the interface contract and is unrepresentable
here (K15; log 5). -/
structure Request where
  cmd : Cmd
  a : Bus
  b : Bus
  payload : List Byte
  payload_length : payload.length = payloadLength cmd
  deriving DecidableEq, Repr

/-- A response (R22): STATUS, the result bus R, and the payload that a `B64DECODE` response carries (R26). -/
structure Response where
  status : Status
  r : Bus
  payload : List Byte
  deriving DecidableEq, Repr

/-- Why the machine stops with a fault. No step does (R27, R300). -/
inductive Fault where
  /-- Raised by executing an instruction in a state with no request in flight: there is no response without a request (R300),
  so there is nothing to execute. Safe: the block's step never executes an instruction in such a state (log 7). -/
  | noRequest
  deriving DecidableEq, Repr

/-- Why the machine refuses an instruction. -/
inductive Refusal where
  /-- Raised by `exec` for an instruction that has no meaning in the model yet; no arm of `exec` does so now. Safe: the
  machine stops. -/
  | notModelled (mnemonic : String)
  deriving DecidableEq, Repr

/-- The machine: the block (`inFlight`, `response`) and what stands around it. -/
structure State where
  /-- The request being served, sampled at its acceptance; `none` when the block is idle (R34, R36, R55, R341). -/
  inFlight : Option Request
  /-- The response produced and not yet delivered; `none` when no response is pending (R22, R341). -/
  response : Option Response
  /-- The host's side: the requests presented and not yet accepted, the next to be served first (R20, R24, R346; log 2). -/
  requests : List Request
  /-- The reset input: its sample at each coming step, true for asserted, low past the end (R340; log 3). -/
  resetLine : List Bool
  /-- The host's side: the responses consumed so far, oldest first (R20, R24; log 2). -/
  delivered : List Response
  deriving DecidableEq, Repr

/-- The machine after reset: the block is idle, no transaction in progress and no response pending (R36, R341). The host's side
has presented and consumed nothing and does not assert reset again (log 2). -/
def State.reset : State where
  inFlight := none
  response := none
  requests := []
  resetLine := []
  delivered := []

end Sys2Proof.Machine
end

