-- ==== Sys2Proof/Machine/Ops.lean ====
section
/-! DEFINITION. The named operations of the transaction interface (10_state.md, 60_exceptions.md, 70_reset_and_hazards.md):
accepting a request, answering it, the exception Illegal, delivering a response, and reset. -/

namespace Sys2Proof.Machine

/-- The 2-bit code of a STATUS (R23). -/
def Status.code : Status → BitVec 2
  | .ok => 0
  | .illegal => 1

/-- The response of a legal command whose result on R is `r` (R22, R23): STATUS = OK and no payload. -/
def okResponse (r : Bus) : Response where
  status := .ok
  r := r
  payload := []

/-- The response of a legal message command (R26): STATUS = OK, R, and the response payload. -/
def messageResponse (r : Bus) (payload : List Byte) : Response where
  status := .ok
  r := r
  payload := payload

/-- The response of the exception Illegal (R301): STATUS = ILLEGAL, R = 0 in all its bits, no payload, nothing recorded. -/
def illegalResponse : Response where
  status := .illegal
  r := 0
  payload := []

/-- The state in which the transaction in flight has been answered with `resp`: the block is idle again and the response is
pending (R24, R351). -/
def State.answered (s : State) (resp : Response) : State :=
  { s with inFlight := none, response := some resp }

/-- Answering the request in flight with the response `f` computes from it (R24): the one thing a command can do. With no
request in flight there is nothing to answer (R300; log 7). -/
def answer (s : State) (f : Request → Response) : Host.Outcome State Fault Refusal :=
  match s.inFlight with
  | some q => .next (s.answered (f q))
  | none => .fault .noRequest

/-- Taking the exception: `raise Illegal` is the response of R301 and nothing else. It saves no state, changes no mode and
transfers control nowhere (R312), and there is no return from it (R313). -/
def raiseIllegal (s : State) : Host.Outcome State Fault Refusal :=
  answer s (fun _ => illegalResponse)

/-- Accepting a request: an idle block samples the first request presented (R24, R55); with none presented it stays idle
(R324). -/
def State.accept (s : State) : State :=
  match s.requests with
  | q :: rest => { s with inFlight := some q, requests := rest }
  | [] => s

/-- Delivering the pending response to the host (R20, R300): one response per request, in order. -/
def State.deliver (s : State) (resp : Response) : State :=
  { s with response := none, delivered := s.delivered ++ [resp] }

/-- Whether the reset input is asserted at this step (R340). -/
def State.resetAsserted (s : State) : Bool := s.resetLine.headD false

/-- The reset input moves on to its next sample. -/
def State.sampleReset (s : State) : State := { s with resetLine := s.resetLine.tail }

/-- Reset lands: the transaction in flight is abandoned without a response, and no response is pending (R36, R341, R343). The
host's requests that were not accepted stay presented (R346). -/
def State.landReset (s : State) : State := { s with inFlight := none, response := none }

/-- What one step of the block is, once reset is low. -/
inductive Activity where
  /-- A response is pending: it is delivered. -/
  | deliver (resp : Response)
  /-- A request is in flight: its command is executed. -/
  | execute (q : Request)
  /-- The block is idle: it accepts the next request, if there is one. -/
  | accept
  deriving DecidableEq, Repr

/-- The next activity of the block (R24): it accepts one request, produces its response, and only then accepts the next. -/
def State.activity (s : State) : Activity :=
  match s.response, s.inFlight with
  | some resp, _ => .deliver resp
  | none, some q => .execute q
  | none, none => .accept

/-- The request with command word `cmd` and operand buses `a` and `b`; a payload that the word calls for is of zero bytes. -/
def requestWith (cmd : Cmd) (a b : Bus) : Request where
  cmd := cmd
  a := a
  b := b
  payload := List.replicate (payloadLength cmd) 0
  payload_length := List.length_replicate

/-- The request with command word `cmd` on the operand buses of `s`'s request in flight (zero buses when there is none). -/
def State.requestOf (s : State) (cmd : Cmd) : Request :=
  requestWith cmd ((s.inFlight.map Request.a).getD 0) ((s.inFlight.map Request.b).getD 0)

end Sys2Proof.Machine
end

