-- ==== Sys2Proof/Machine/Operands.lean ====
section
/-! DEFINITION. Every operand form of LANE-1: the vectors on the buses A and B, the result on R (20_memory.md section 2), and
the scalar IMM (R65). -/

namespace Sys2Proof

/-- The number of lanes, N (R63). -/
def LaneCount.count : LaneCount → Nat
  | .n4 => 4
  | .n8 => 8
  | .n16 => 16

/-- The lane width W of an integer element type (R64). -/
def LaneWidth.bits : LaneWidth → Nat
  | .u8 => 8
  | .u16 => 16

/-- The lane width of an element type; a boolean lane is one bit (R41, R64). -/
def ElemType.bits : ElemType → Nat
  | .u8 => 8
  | .u16 => 16
  | .bool => 1

namespace Machine

/-- Unpacking a vector from a bus (R41): lane i is bits [w*i+w-1 : w*i]. Bits above n*w are not read (R42). -/
def unpack (n w : Nat) (bus : Bus) : Lanes n w := fun i => bus.extractLsb' (w * i) w

/-- Lanes in a row on a bus, the first at the least significant end, zeros above (R41, R42). -/
def packList {w : Nat} : List (BitVec w) → Bus
  | [] => 0
  | x :: xs => x.setWidth 256 ||| (packList xs <<< w)

/-- Packing a vector onto R (R41): lane i at bits [w*i+w-1 : w*i], every bit above 0 (R42). -/
def pack {n w : Nat} (v : Lanes n w) : Bus := packList (List.ofFn v)

/-- The vector written `[x0, x1, ...]`, lane 0 first (R13). -/
def ofList {w : Nat} (n : Nat) (xs : List (BitVec w)) : Lanes n w := fun i => xs.getD i 0

/-- The vector operand a of a request, of n lanes of w bits on A (R66). -/
def operandA (n w : Nat) (q : Request) : Lanes n w := unpack n w q.a

/-- The vector operand b of a request, of n lanes of w bits on B (R66). -/
def operandB (n w : Nat) (q : Request) : Lanes n w := unpack n w q.b

/-- The scalar of an arithmetic command: IMM mod 2^W (R65, D12). -/
def scalarOf (w : Nat) (imm : BitVec 16) : BitVec w := imm.setWidth w

/-- A vector result as the response (R22, R41). -/
def vectorResponse {n w : Nat} (v : Lanes n w) : Response :=
  okResponse (pack v)

/-- A scalar result in the low bits of R, zero-extended (R22, R140). -/
def scalarResponse (x : Nat) : Response :=
  okResponse (BitVec.ofNat 256 x)

end Machine

end Sys2Proof
end

