-- ==== Sys2Proof/Machine/Flags.lean ====
section
/-! DEFINITION. The block has no flags (R30): no command reads or writes one. What looks like a flag is a bit of R in the
response of the command that computed it, and is placed there by the definitions of this file. -/

namespace Sys2Proof.Machine

/-- A boolean result: R[0], 1 for true (R140; `RALL`, `RANY`). -/
def boolResponse (b : Bool) : Response := scalarResponse b.toNat

/-- The result of `B64CHUNK` on R (R214): the three bytes at [7:0], [15:8], [23:16], `valid` at [32], all other bits 0. -/
def chunkResult (out : Lanes 3 8) (valid : Bool) : Bus :=
  0#223 ++ BitVec.ofBool valid ++ 0#8 ++ out 2 ++ out 1 ++ out 0

/-- The result of `B64DECODE` on R (R220): `ok` at [0], M, the number of decoded bytes, at [31:16], all other bits 0. -/
def bufferResult (ok : Bool) (m : Nat) : Bus :=
  0#224 ++ BitVec.ofNat 16 m ++ 0#15 ++ BitVec.ofBool ok

end Sys2Proof.Machine
end

