-- ==== Sys2Proof/Machine/LaneOps.lean ====
section
/-! DEFINITION. The operations of the lane operation unit LOU on typed vectors, the ones the commands and both pipelines are
written with (40_shift.md to 44_elementwise.md). "For each lane i" is a function of i that reads the operands only (R13, R53). -/

namespace Sys2Proof.Machine

variable {n w : Nat}

/-! Shifts (R100 to R108). -/

/-- `lsr_W(x, s)`: floor(x / 2^s) when s < W, 0 when s >= W (R100). -/
def lsr (x : BitVec w) (s : Nat) : BitVec w := if s < w then x >>> s else 0

/-- `lsl_W(x, s)`: (x * 2^s) mod 2^W when s < W, 0 when s >= W (R100). -/
def lsl (x : BitVec w) (s : Nat) : BitVec w := if s < w then x <<< s else 0

/-- Shift right by one scalar amount (R101). -/
def shiftRight (a : Lanes n w) (s : Nat) : Lanes n w := fun i => lsr (a i) s

/-- Shift right by per-lane amounts (R102, R106). -/
def shiftRightBy {v : Nat} (a : Lanes n w) (b : Lanes n v) : Lanes n w := fun i => lsr (a i) (b i).toNat

/-- Shift left by one scalar amount (R103). -/
def shiftLeft (a : Lanes n w) (s : Nat) : Lanes n w := fun i => lsl (a i) s

/-- Shift left by per-lane amounts (R104, R108). -/
def shiftLeftBy {v : Nat} (a : Lanes n w) (b : Lanes n v) : Lanes n w := fun i => lsl (a i) (b i).toNat

/-! Gather and permutation (R120, R121). -/

/-- Table lookup: t[idx[i]] when the index is in bounds, else 0; the index is compared at its full width (R45, R120). -/
def swizzle {t v : Nat} (table : Lanes t w) (idx : Lanes n v) : Lanes n w :=
  fun i => if h : (idx i).toNat < t then table ⟨(idx i).toNat, h⟩ else 0

/-- Rotation of lane positions: r[i] = a[(i + k) mod N] (R121). -/
def rotate (a : Lanes n w) (k : Nat) : Lanes n w :=
  fun i => a ⟨(i.val + k) % n, Nat.mod_lt _ (Nat.lt_of_le_of_lt (Nat.zero_le _) i.isLt)⟩

/-! Comparisons (R130, R179): the scalar is the whole 16-bit IMM, compared with the zero-extended lane (D12). -/

/-- Per-lane equality with a scalar (R130). -/
def compareEq (a : Lanes n w) (s : BitVec 16) : Lanes n 1 := fun i => BitVec.ofBool ((a i).toNat == s.toNat)

/-- Per-lane unsigned greater-than against a scalar (R179). -/
def compareGt (a : Lanes n w) (s : BitVec 16) : Lanes n 1 := fun i => BitVec.ofBool (decide (s.toNat < (a i).toNat))

/-! Reductions (R141 to R146): the lanes are taken in order, lane 0 first; R140 says the order does not matter. -/

/-- Bitwise OR of all lanes (R141). -/
def reduceOr (a : Lanes n w) : BitVec w := (List.ofFn a).foldr (· ||| ·) 0

/-- All lanes true (R142). -/
def reduceAll (a : Lanes n 1) : Bool := (List.ofFn a).all (· == 1)

/-- At least one lane true (R143). -/
def reduceAny (a : Lanes n 1) : Bool := (List.ofFn a).any (· == 1)

/-- Exact arithmetic sum of all lanes (R144). -/
def reduceSum (a : Lanes n w) : Nat := ((List.ofFn a).map BitVec.toNat).sum

/-- The bitmask of a boolean vector: the sum of 2^i over its true lanes i (R145). -/
def maskOf (a : Lanes n 1) : Nat := (List.ofFn (fun i => if a i == 1 then 2 ^ i.val else 0)).sum

/-- The least true lane, or N when there is none (R146). -/
def findFirstSet (a : Lanes n 1) : Nat := (List.ofFn a).findIdx (· == 1)

/-! Elementwise operations (R161, R170 to R182): unsigned, modulo 2^W. -/

/-- Lanewise addition (R170). -/
def laneAdd (a b : Lanes n w) : Lanes n w := fun i => a i + b i

/-- Lanewise subtraction (R171). -/
def laneSub (a b : Lanes n w) : Lanes n w := fun i => a i - b i

/-- Lanewise subtraction of a scalar (R172). -/
def laneSubScalar (a : Lanes n w) (s : BitVec w) : Lanes n w := fun i => a i - s

/-- Lanewise multiplication by a scalar (R173). -/
def laneMulScalar (a : Lanes n w) (s : BitVec w) : Lanes n w := fun i => a i * s

/-- Lanewise bitwise AND (R174). -/
def laneAnd (a b : Lanes n w) : Lanes n w := fun i => a i &&& b i

/-- Lanewise bitwise AND with a scalar (R175). -/
def laneAndScalar (a : Lanes n w) (s : BitVec w) : Lanes n w := fun i => a i &&& s

/-- Lanewise bitwise OR (R176). -/
def laneOr (a b : Lanes n w) : Lanes n w := fun i => a i ||| b i

/-- Lanewise complement (R178). -/
def laneNot (a : Lanes n w) : Lanes n w := fun i => ~~~(a i)

/-- Boolean to integer: 1 for a true lane, 0 for a false one (R180). -/
def boolToU8 (a : Lanes n 1) : Lanes n 8 := fun i => if a i == 1 then 1 else 0

/-- Zero extension of 8-bit lanes to 16 bits (R181). -/
def laneWiden (a : Lanes n 8) : Lanes n 16 := fun i => (a i).setWidth 16

/-- The low byte of 16-bit lanes (R182). -/
def laneNarrow (a : Lanes n 16) : Lanes n 8 := fun i => (a i).setWidth 8

/-! Scalar helpers of R16, on a mask of k bits. -/

/-- `tzcnt_N(m)`: the index of the lowest set bit, or N when m = 0 (R16). -/
def tzcnt {k : Nat} (m : BitVec k) : Nat := (List.range k).findIdx (fun j => m.getLsbD j)

/-- `clear_lowest(m)`: m & (m - 1) (R16). -/
def clearLowest {k : Nat} (m : BitVec k) : BitVec k := m &&& (m - 1)

end Sys2Proof.Machine
end

