-- ==== Sys2Proof/Machine/Tables.lean ====
section
/-! DEFINITION. The constant tables (20_memory.md section 4): immutable, the same before and after reset and in every
transaction (R35, R342). Lane 0 first. -/

namespace Sys2Proof.Machine

/-- `OFFSET_TABLE` (R48): the offset of each hash. -/
def offsetTable : Lanes 8 8 := ofList 8 [0xFF, 0x10, 0x13, 0x04, 0xBF, 0xBF, 0xB9, 0xB9]

/-- `LO_LUT` (R49), indexed by the low nibble; the run of 0x11 is nine long (C1). -/
def loLut : Lanes 16 8 :=
  ofList 16 [0x15, 0x11, 0x11, 0x11, 0x11, 0x11, 0x11, 0x11, 0x11, 0x11, 0x13, 0x1A, 0x1B, 0x1B, 0x1B, 0x1A]

/-- `HI_LUT` (R50), indexed by the high nibble. -/
def hiLut : Lanes 16 8 :=
  ofList 16 [0x10, 0x10, 0x01, 0x02, 0x04, 0x08, 0x04, 0x08, 0x10, 0x10, 0x10, 0x10, 0x10, 0x10, 0x10, 0x10]

/-- `SHIFT_AMT` (R51): the left-shift amounts of the bit packing. -/
def shiftAmt : Lanes 4 8 := ofList 4 [2, 4, 6, 8]

/-- `OUT_PATTERN` (R51): lane i is i + i/3; the chunk decoder uses lanes 0, 1 and 2 (R212, C7). -/
def outPattern (n : Nat) : Lanes n 8 := fun i => BitVec.ofNat 8 (i.val + i.val / 3)

/-- The code of `'/'` (R11). -/
def slash : BitVec 16 := 0x2F

/-- The code of `'.'` (R11, R51). -/
def dot : BitVec 16 := 0x2E

/-- The code of `'0'` (R11, R51). -/
def digit0 : BitVec 16 := 0x30

end Sys2Proof.Machine
end

