-- ==== Sys2Proof/Machine/Base64.lean ====
section
/-! DEFINITION. The base64 decode pipeline B64 (45_base64.md): the chunk data path R201 to R212 in the spec's order, each step
an operation of the lane operation unit, and the two commands. -/

namespace Sys2Proof.Machine

/-- R201: the high nibbles. -/
def b64Hi (ascii : Lanes 4 8) : Lanes 4 8 := shiftRight ascii 4

/-- R202, R203: the perfect hash, the high nibble less 1 for `'/'` (minus, C2). -/
def b64Hash (ascii : Lanes 4 8) : Lanes 4 8 := laneSub (b64Hi ascii) (boolToU8 (compareEq ascii slash))

/-- R204: the sextets, each character plus the offset of its hash modulo 256; garbage bits for invalid characters. -/
def b64Sextets (ascii : Lanes 4 8) : Lanes 4 8 := laneAdd ascii (swizzle offsetTable (b64Hash ascii))

/-- R205, R206: the validation masks, nonzero where the character is not in the alphabet. -/
def b64Mask (ascii : Lanes 4 8) : Lanes 4 8 :=
  laneAnd (swizzle loLut (laneAndScalar ascii 0x0F)) (swizzle hiLut (b64Hi ascii))

/-- R207: the chunk is valid iff the OR of the masks is zero. -/
def b64Valid (ascii : Lanes 4 8) : Bool := reduceOr (b64Mask ascii) == 0

/-- R208: the sextets widened and shifted left by 2, 4, 6, 8. -/
def b64Shifted (ascii : Lanes 4 8) : Lanes 4 16 := shiftLeftBy (laneWiden (b64Sextets ascii)) shiftAmt

/-- R209, R210: the low bytes OR the high bytes rotated one lane left. -/
def b64Decoded (ascii : Lanes 4 8) : Lanes 4 8 :=
  laneOr (laneNarrow (b64Shifted ascii)) (rotate (laneNarrow (shiftRight (b64Shifted ascii) 8)) 1)

/-- R212: the output compaction, the three bytes of the chunk. -/
def b64Out (ascii : Lanes 4 8) : Lanes 3 8 := swizzle (b64Decoded ascii) (outPattern 3)

/-- `B64CHUNK` (R214): the bytes are computed whether or not the chunk is valid (R215). -/
def execB64chunk (s : State) : Host.Outcome State Fault Refusal :=
  answer s fun q => okResponse (chunkResult (b64Out (operandA 4 8 q)) (b64Valid (operandA 4 8 q)))

/-- The 4-byte chunks of a payload, in input order (R221 step 3). -/
def chunksOf : List Byte → List (Lanes 4 8)
  | a :: b :: c :: d :: rest => ofList 4 [a, b, c, d] :: chunksOf rest
  | _ => []

/-- The buffer decoder (R221), all or nothing: the decoded bytes and `ok`. -/
def b64DecodeBuffer (ascii : List Byte) : List Byte × Bool :=
  if ascii.length = 0 then ([], true)
  else if ascii.length % 4 ≠ 0 then ([], false)
  else if (chunksOf ascii).all b64Valid then ((chunksOf ascii).flatMap fun c => List.ofFn (b64Out c), true)
  else ([], false)

/-- The response of `B64DECODE` to a payload (R220): R[0] = ok, R[31:16] = M, and the M decoded bytes. -/
def b64BufferResponse (ascii : List Byte) : Response :=
  messageResponse (bufferResult (b64DecodeBuffer ascii).2 (b64DecodeBuffer ascii).1.length) (b64DecodeBuffer ascii).1

/-- `B64DECODE` (R220). The length L is the payload's own (K15); it is the IMM of the request's command word, whose legality
the decoder has checked (R73; log 10). -/
def execB64decode (s : State) : Host.Outcome State Fault Refusal :=
  answer s fun q => b64BufferResponse q.payload

end Sys2Proof.Machine
end

