-- ==== Sys2Proof/Machine/Compare.lean ====
section
/-! DEFINITION. The compare command (42_compare.md). -/

namespace Sys2Proof.Machine

/-- `CMPEQ` (R130): per-lane equality with IMM, as integers. -/
def execCmpeq (n : LaneCount) (w : LaneWidth) (imm : BitVec 16) (s : State) : Host.Outcome State Fault Refusal :=
  answer s fun q => vectorResponse (compareEq (operandA n.count w.bits q) imm)

end Sys2Proof.Machine
end

