-- ==== Sys2Proof/Machine/Elementwise.lean ====
section
/-! DEFINITION. The elementwise helper commands (44_elementwise.md). -/

namespace Sys2Proof.Machine

/-- `ADD` (R170). -/
def execAdd (n : LaneCount) (w : LaneWidth) (s : State) : Host.Outcome State Fault Refusal :=
  answer s fun q => vectorResponse (laneAdd (operandA n.count w.bits q) (operandB n.count w.bits q))

/-- `SUB` (R171). -/
def execSub (n : LaneCount) (w : LaneWidth) (s : State) : Host.Outcome State Fault Refusal :=
  answer s fun q => vectorResponse (laneSub (operandA n.count w.bits q) (operandB n.count w.bits q))

/-- `SUBS` (R172): the scalar is IMM mod 2^W. -/
def execSubs (n : LaneCount) (w : LaneWidth) (imm : BitVec 16) (s : State) : Host.Outcome State Fault Refusal :=
  answer s fun q => vectorResponse (laneSubScalar (operandA n.count w.bits q) (scalarOf w.bits imm))

/-- `MULS` (R173): the scalar is IMM mod 2^W. -/
def execMuls (n : LaneCount) (w : LaneWidth) (imm : BitVec 16) (s : State) : Host.Outcome State Fault Refusal :=
  answer s fun q => vectorResponse (laneMulScalar (operandA n.count w.bits q) (scalarOf w.bits imm))

/-- `AND` (R174). -/
def execAnd (n : LaneCount) (e : ElemType) (s : State) : Host.Outcome State Fault Refusal :=
  answer s fun q => vectorResponse (laneAnd (operandA n.count e.bits q) (operandB n.count e.bits q))

/-- `ANDS` (R175): the scalar is IMM mod 2^W. -/
def execAnds (n : LaneCount) (w : LaneWidth) (imm : BitVec 16) (s : State) : Host.Outcome State Fault Refusal :=
  answer s fun q => vectorResponse (laneAndScalar (operandA n.count w.bits q) (scalarOf w.bits imm))

/-- `OR` (R176). -/
def execOr (n : LaneCount) (e : ElemType) (s : State) : Host.Outcome State Fault Refusal :=
  answer s fun q => vectorResponse (laneOr (operandA n.count e.bits q) (operandB n.count e.bits q))

/-- `NOT` (R178). -/
def execNot (n : LaneCount) (e : ElemType) (s : State) : Host.Outcome State Fault Refusal :=
  answer s fun q => vectorResponse (laneNot (operandA n.count e.bits q))

/-- `CMPGTU` (R179): the scalar is the whole IMM. -/
def execCmpgtu (n : LaneCount) (w : LaneWidth) (imm : BitVec 16) (s : State) : Host.Outcome State Fault Refusal :=
  answer s fun q => vectorResponse (compareGt (operandA n.count w.bits q) imm)

/-- `BTOU` (R180). -/
def execBtou (n : LaneCount) (s : State) : Host.Outcome State Fault Refusal :=
  answer s fun q => vectorResponse (boolToU8 (operandA n.count 1 q))

/-- `WIDEN` (R181). -/
def execWiden (n : LaneCount) (s : State) : Host.Outcome State Fault Refusal :=
  answer s fun q => vectorResponse (laneWiden (operandA n.count 8 q))

/-- `NARROW` (R182). -/
def execNarrow (n : LaneCount) (s : State) : Host.Outcome State Fault Refusal :=
  answer s fun q => vectorResponse (laneNarrow (operandA n.count 16 q))

end Sys2Proof.Machine
end

