-- ==== Sys2Proof/Machine/Gather.lean ====
section
/-! DEFINITION. The gather and lane-permutation commands (41_swizzle_rotate.md). -/

namespace Sys2Proof.Machine

/-- `SWIZZLE` (R120): the table is operand A of shape (n, w), the index vector operand B of shape (m, x); the result has the
index vector's lane count and the table's element type. -/
def execSwizzle (n : LaneCount) (w : LaneWidth) (m : LaneCount) (x : LaneWidth) (s : State) :
    Host.Outcome State Fault Refusal :=
  answer s fun q => vectorResponse (swizzle (operandA n.count w.bits q) (operandB m.count x.bits q))

/-- `ROTATE` (R121): lane positions rotated by IMM, toward lane 0. -/
def execRotate (n : LaneCount) (e : ElemType) (imm : BitVec 16) (s : State) : Host.Outcome State Fault Refusal :=
  answer s fun q => vectorResponse (rotate (operandA n.count e.bits q) imm.toNat)

end Sys2Proof.Machine
end

