-- ==== Sys2Proof/Machine/Ipv4.lean ====
section
/-! DEFINITION. The IPv4 parser pipeline IP4 (46_ipv4.md): the steps R231 to R252 in the spec's order, each an operation of the
lane operation unit, and the command. The steps are checks in a fixed priority order (R253). -/

namespace Sys2Proof.Machine

/-- The error kinds of R261. -/
inductive Ip4Error where
  | none | tooShortOrLong | unexpectedChar | invalidDotCount | invalidFieldLength | leadingZero | valueTooLarge
  deriving DecidableEq, Repr

/-- The codes of the error kinds (R261). -/
def ip4ErrorCode : Ip4Error → BitVec 3
  | .none => 0
  | .tooShortOrLong => 1
  | .unexpectedChar => 2
  | .invalidDotCount => 3
  | .invalidFieldLength => 4
  | .leadingZero => 5
  | .valueTooLarge => 6

/-- The fields of the result record (R262). -/
structure Ip4Record where
  octets : BitVec 32 := 0
  kind : Ip4Error
  pos : BitVec 4 := 0
  len : BitVec 4 := 0
  field : BitVec 2 := 0
  char : Byte := 0
  deriving DecidableEq, Repr

/-- The result record on R (R262): octets at [31:0], err_kind [34:32], err_pos [39:36], err_len [43:40], err_field [45:44],
err_char [55:48], all other bits 0. -/
def ip4Result (x : Ip4Record) : Bus :=
  0#200 ++ x.char ++ 0#2 ++ x.field ++ x.len ++ x.pos ++ 0#1 ++ ip4ErrorCode x.kind ++ x.octets

/-- R232: the buffer padded with zero bytes at the positions i >= len; the host's bytes there are ignored. -/
def ip4Pad (len : Nat) (buf : Lanes 16 8) : Lanes 16 8 := fun i => if i.val < len then buf i else 0

/-- R233: `is_dot`. -/
def ip4IsDot (c : Lanes 16 8) : Lanes 16 1 := compareEq c dot

/-- R233: `is_digit`, by the range test of R179. -/
def ip4IsDigit (c : Lanes 16 8) : Lanes 16 1 := laneNot (compareGt (laneSubScalar c (scalarOf 8 digit0)) 9)

/-- R234: the pad positions, where a zero byte is admitted (C6, D18). -/
def ip4IsPad (len : Nat) (c : Lanes 16 8) : Lanes 16 1 :=
  laneAnd (compareEq c 0) (fun i => BitVec.ofBool (decide (len ≤ i.val)))

/-- R234: `is_valid`. -/
def ip4IsValid (len : Nat) (c : Lanes 16 8) : Lanes 16 1 :=
  laneOr (laneOr (ip4IsDot c) (ip4IsDigit c)) (ip4IsPad len c)

/-- R239: the 16-bit dot mask m0. -/
def ip4DotMask (c : Lanes 16 8) : BitVec 16 := BitVec.ofNat 16 (maskOf (ip4IsDot c))

/-- R240: dot0, dot1, dot2 for k = 0, 1, 2: the lowest set bit of the mask with its k lowest set bits cleared. -/
def ip4DotPos (m0 : BitVec 16) : Nat → Nat
  | 0 => tzcnt m0
  | k + 1 => ip4DotPos (clearLowest m0) k

/-- R242: where the fields start. -/
def ip4Start (c : Lanes 16 8) : Lanes 4 8 :=
  ofList 4 [0, BitVec.ofNat 8 (ip4DotPos (ip4DotMask c) 0 + 1), BitVec.ofNat 8 (ip4DotPos (ip4DotMask c) 1 + 1),
    BitVec.ofNat 8 (ip4DotPos (ip4DotMask c) 2 + 1)]

/-- R242: where the fields end, exclusive. -/
def ip4End (len : Nat) (c : Lanes 16 8) : Lanes 4 8 :=
  ofList 4 [BitVec.ofNat 8 (ip4DotPos (ip4DotMask c) 0), BitVec.ofNat 8 (ip4DotPos (ip4DotMask c) 1),
    BitVec.ofNat 8 (ip4DotPos (ip4DotMask c) 2), BitVec.ofNat 8 len]

/-- R242: the lengths of the fields. -/
def ip4Flen (len : Nat) (c : Lanes 16 8) : Lanes 4 8 := laneSub (ip4End len c) (ip4Start c)

/-- R243: the fields whose length is not 1, 2 or 3. -/
def ip4BadLen (len : Nat) (c : Lanes 16 8) : Lanes 4 1 :=
  laneOr (compareEq (ip4Flen len c) 0) (compareGt (ip4Flen len c) 3)

/-- R245: the characters that stand j places before the end of each field, gathered from the buffer, less `'0'`; j is 1 for the
units, 2 for the tens, 3 for the hundreds (D21). -/
def ip4Gather (j : Nat) (len : Nat) (c : Lanes 16 8) : Lanes 4 8 :=
  laneSubScalar (swizzle c (laneSubScalar (ip4End len c) (BitVec.ofNat 8 j))) (scalarOf 8 digit0)

/-- R247: the units digits. -/
def ip4D0 (len : Nat) (c : Lanes 16 8) : Lanes 4 8 := ip4Gather 1 len c

/-- R247: the tens digits, 0 in a field shorter than 2. -/
def ip4D1 (len : Nat) (c : Lanes 16 8) : Lanes 4 8 := fun f => if 2 ≤ (ip4Flen len c f).toNat then ip4Gather 2 len c f else 0

/-- R247: the hundreds digits, 0 in a field that is not of length 3. -/
def ip4D2 (len : Nat) (c : Lanes 16 8) : Lanes 4 8 := fun f => if (ip4Flen len c f).toNat = 3 then ip4Gather 3 len c f else 0

/-- R248: the values of the fields, in 16-bit lanes. -/
def ip4Value (len : Nat) (c : Lanes 16 8) : Lanes 4 16 :=
  laneAdd (laneAdd (laneMulScalar (laneWiden (ip4D2 len c)) 100) (laneMulScalar (laneWiden (ip4D1 len c)) 10))
    (laneWiden (ip4D0 len c))

/-- R249: the fields with a leading zero; only the top digit of a field of length 2 or 3 is examined (K4). -/
def ip4LeadingZero (len : Nat) (c : Lanes 16 8) : Lanes 4 1 :=
  laneOr (laneAnd (compareEq (ip4Flen len c) 2) (compareEq (ip4D1 len c) 0))
    (laneAnd (compareEq (ip4Flen len c) 3) (compareEq (ip4D2 len c) 0))

/-- R250: the fields whose value exceeds 255. -/
def ip4Big (len : Nat) (c : Lanes 16 8) : Lanes 4 1 := compareGt (ip4Value len c) 255

/-- R250: the failing fields. -/
def ip4Fail (len : Nat) (c : Lanes 16 8) : Lanes 4 1 := laneOr (ip4LeadingZero len c) (ip4Big len c)

/-- A lane of a vector by its number; 0 past the end (which R236, R244 and R252 exclude where it is used). -/
def laneAt {n w : Nat} (v : Lanes n w) (i : Nat) : BitVec w := if h : i < n then v ⟨i, h⟩ else 0

/-- R263: a record whose locator is the field f. -/
def ip4FieldRecord (kind : Ip4Error) (len : Nat) (c : Lanes 16 8) (f : Nat) : Ip4Record where
  kind := kind
  field := BitVec.ofNat 2 f
  pos := (laneAt (ip4Start c) f).setWidth 4
  len := (laneAt (ip4Flen len c) f).setWidth 4

/-- R236, R263: the record of an unexpected character, at the first invalid position. -/
def ip4CharRecord (len : Nat) (c : Lanes 16 8) : Ip4Record where
  kind := .unexpectedChar
  pos := BitVec.ofNat 4 (findFirstSet (laneNot (ip4IsValid len c)))
  len := 1
  char := laneAt c (findFirstSet (laneNot (ip4IsValid len c)))

/-- R251: the octets, octet k at bits [8k+7:8k] (R262). -/
def ip4Octets (len : Nat) (c : Lanes 16 8) : BitVec 32 := (pack (laneNarrow (ip4Value len c))).setWidth 32

/-- The checks of the padded buffer `c` in priority order (R235 to R253), after the length gate. -/
def ip4Check (len : Nat) (c : Lanes 16 8) : Ip4Record :=
  if reduceAll (ip4IsValid len c) = false then ip4CharRecord len c
  else if reduceSum (ip4IsDot c) ≠ 3 then { kind := .invalidDotCount }
  else if reduceAny (ip4BadLen len c) then ip4FieldRecord .invalidFieldLength len c (findFirstSet (ip4BadLen len c))
  else if reduceAny (ip4Fail len c) then
    ip4FieldRecord (if laneAt (ip4LeadingZero len c) (findFirstSet (ip4Fail len c)) = 1 then .leadingZero else .valueTooLarge)
      len c (findFirstSet (ip4Fail len c))
  else { kind := .none, octets := ip4Octets len c }

/-- The parser: the length gate first (R231), the buffer not read when it fails. -/
def ip4Parse (len : Nat) (buf : Lanes 16 8) : Ip4Record :=
  if len < 7 ∨ 15 < len then { kind := .tooShortOrLong } else ip4Check len (ip4Pad len buf)

/-- `IP4PARSE` (R260). -/
def execIp4parse (len : BitVec 16) (s : State) : Host.Outcome State Fault Refusal :=
  answer s fun q => okResponse (ip4Result (ip4Parse len.toNat (operandA 16 8 q)))

end Sys2Proof.Machine
end

