-- ==== Sys2Proof/Machine/Reduce.lean ====
section
/-! DEFINITION. The reduction commands (43_reduce.md): one scalar in the low bits of R, zero-extended (R140). -/

namespace Sys2Proof.Machine

/-- `ROR` (R141): bitwise OR of all lanes. -/
def execRor (n : LaneCount) (e : ElemType) (s : State) : Host.Outcome State Fault Refusal :=
  answer s fun q => scalarResponse (reduceOr (operandA n.count e.bits q)).toNat

/-- `RALL` (R142): all lanes true. -/
def execRall (n : LaneCount) (s : State) : Host.Outcome State Fault Refusal :=
  answer s fun q => boolResponse (reduceAll (operandA n.count 1 q))

/-- `RANY` (R143): at least one lane true. -/
def execRany (n : LaneCount) (s : State) : Host.Outcome State Fault Refusal :=
  answer s fun q => boolResponse (reduceAny (operandA n.count 1 q))

/-- `RSUM` (R144): exact sum of all lanes, in R[31:0]; it never exceeds 16 * 65535, so 32 bits hold it (D11). -/
def execRsum (n : LaneCount) (e : ElemType) (s : State) : Host.Outcome State Fault Refusal :=
  answer s fun q => scalarResponse (reduceSum (operandA n.count e.bits q) % 2 ^ 32)

/-- `MASK` (R145): the booleans packed into a bitmask. -/
def execMask (n : LaneCount) (s : State) : Host.Outcome State Fault Refusal :=
  answer s fun q => scalarResponse (maskOf (operandA n.count 1 q))

/-- `FFS` (R146): the index of the lowest-numbered true lane, N when there is none. -/
def execFfs (n : LaneCount) (s : State) : Host.Outcome State Fault Refusal :=
  answer s fun q => scalarResponse (findFirstSet (operandA n.count 1 q))

end Sys2Proof.Machine
end

