-- ==== Sys2Proof/Machine/Shift.lean ====
section
/-! DEFINITION. The shift commands (40_shift.md). -/

namespace Sys2Proof.Machine

/-- `SHR` (R101): per-lane logical shift right by IMM. -/
def execShr (n : LaneCount) (w : LaneWidth) (imm : BitVec 16) (s : State) : Host.Outcome State Fault Refusal :=
  answer s fun q => vectorResponse (shiftRight (operandA n.count w.bits q) imm.toNat)

/-- `SHRV` (R102): per-lane logical shift right by the lanes of b. -/
def execShrv (n : LaneCount) (w : LaneWidth) (s : State) : Host.Outcome State Fault Refusal :=
  answer s fun q => vectorResponse (shiftRightBy (operandA n.count w.bits q) (operandB n.count w.bits q))

/-- `SHL` (R103): per-lane logical shift left by IMM. -/
def execShl (n : LaneCount) (w : LaneWidth) (imm : BitVec 16) (s : State) : Host.Outcome State Fault Refusal :=
  answer s fun q => vectorResponse (shiftLeft (operandA n.count w.bits q) imm.toNat)

/-- `SHLV` (R104): per-lane logical shift left by the lanes of b. -/
def execShlv (n : LaneCount) (w : LaneWidth) (s : State) : Host.Outcome State Fault Refusal :=
  answer s fun q => vectorResponse (shiftLeftBy (operandA n.count w.bits q) (operandB n.count w.bits q))

/-- `SHRW` (R105): `u8` lanes promoted to 16 bits, then shifted right by IMM. -/
def execShrw (n : LaneCount) (imm : BitVec 16) (s : State) : Host.Outcome State Fault Refusal :=
  answer s fun q => vectorResponse (shiftRight (laneWiden (operandA n.count 8 q)) imm.toNat)

/-- `SHRWV` (R106): `u8` lanes promoted to 16 bits, then shifted right by the `u8` lanes of b. -/
def execShrwv (n : LaneCount) (s : State) : Host.Outcome State Fault Refusal :=
  answer s fun q => vectorResponse (shiftRightBy (laneWiden (operandA n.count 8 q)) (operandB n.count 8 q))

/-- `SHLW` (R107): `u8` lanes promoted to 16 bits, then shifted left by IMM. -/
def execShlw (n : LaneCount) (imm : BitVec 16) (s : State) : Host.Outcome State Fault Refusal :=
  answer s fun q => vectorResponse (shiftLeft (laneWiden (operandA n.count 8 q)) imm.toNat)

/-- `SHLWV` (R108): `u8` lanes promoted to 16 bits, then shifted left by the `u8` lanes of b. -/
def execShlwv (n : LaneCount) (s : State) : Host.Outcome State Fault Refusal :=
  answer s fun q => vectorResponse (shiftLeftBy (laneWiden (operandA n.count 8 q)) (operandB n.count 8 q))

end Sys2Proof.Machine
end

