-- ==== Sys2Proof/Machine/Dispatch.lean ====
section
/-! DEFINITION. What each command does: one arm per constructor of `Instr`, each one call of the command's own meaning. -/

namespace Sys2Proof.Machine

def exec (i : Instr) (s : State) : Host.Outcome State Fault Refusal :=
  match i with
  | .shr n w imm => Sys2Proof.Machine.execShr n w imm s
  | .shrv n w => Sys2Proof.Machine.execShrv n w s
  | .shl n w imm => Sys2Proof.Machine.execShl n w imm s
  | .shlv n w => Sys2Proof.Machine.execShlv n w s
  | .shrw n imm => Sys2Proof.Machine.execShrw n imm s
  | .shrwv n => Sys2Proof.Machine.execShrwv n s
  | .shlw n imm => Sys2Proof.Machine.execShlw n imm s
  | .shlwv n => Sys2Proof.Machine.execShlwv n s
  | .swizzle n w m x => Sys2Proof.Machine.execSwizzle n w m x s
  | .rotate n e imm => Sys2Proof.Machine.execRotate n e imm s
  | .cmpeq n w imm => Sys2Proof.Machine.execCmpeq n w imm s
  | .ror n e => Sys2Proof.Machine.execRor n e s
  | .rall n => Sys2Proof.Machine.execRall n s
  | .rany n => Sys2Proof.Machine.execRany n s
  | .rsum n e => Sys2Proof.Machine.execRsum n e s
  | .mask n => Sys2Proof.Machine.execMask n s
  | .ffs n => Sys2Proof.Machine.execFfs n s
  | .add n w => Sys2Proof.Machine.execAdd n w s
  | .sub n w => Sys2Proof.Machine.execSub n w s
  | .subs n w imm => Sys2Proof.Machine.execSubs n w imm s
  | .muls n w imm => Sys2Proof.Machine.execMuls n w imm s
  | .and n e => Sys2Proof.Machine.execAnd n e s
  | .ands n w imm => Sys2Proof.Machine.execAnds n w imm s
  | .or n e => Sys2Proof.Machine.execOr n e s
  | .not n e => Sys2Proof.Machine.execNot n e s
  | .cmpgtu n w imm => Sys2Proof.Machine.execCmpgtu n w imm s
  | .btou n => Sys2Proof.Machine.execBtou n s
  | .widen n => Sys2Proof.Machine.execWiden n s
  | .narrow n => Sys2Proof.Machine.execNarrow n s
  | .b64chunk => Sys2Proof.Machine.execB64chunk s
  | .b64decode _ => Sys2Proof.Machine.execB64decode s
  | .ip4parse len => Sys2Proof.Machine.execIp4parse len s

end Sys2Proof.Machine
end

