-- ==== Sys2Proof/Machine/Step.lean ====
section
/-! DEFINITION. One step of the machine (R20, R24): reset, or the block's next activity. -/

namespace Sys2Proof.Machine

/-- One step. When the reset input is asserted, reset lands (R340, R343). Otherwise the block delivers a pending response, or
executes the command in flight, with the exception Illegal for a command word that does not decode (R70 to R74, R301), or
accepts the next request (R24; log 1). -/
def step (s : State) : Host.Outcome State Fault Refusal :=
  if s.resetAsserted then .next s.sampleReset.landReset
  else
    match s.sampleReset.activity with
    | .deliver resp => .next (s.sampleReset.deliver resp)
    | .execute q =>
      match decode q.cmd with
      | .ok i => exec i s.sampleReset
      | .error _ => raiseIllegal s.sampleReset
    | .accept => .next s.sampleReset.accept

/-- The state in which the command word `w` of `nbits` bits is the one the next step executes: a request with that word is in
flight, no response is pending before it, and the reset input is low for that step (log 6). -/
def State.withFetchWord (s : State) (nbits w : Nat) : State :=
  { s with
    inFlight := some (s.requestOf (BitVec.ofNat 32 (w % 2 ^ nbits)))
    response := none
    resetLine := false :: s.resetLine }

end Sys2Proof.Machine
end

