-- ==== Sys2Proof/Machine/Pseudo.lean ====
section
/-! DEFINITION. The pseudo-instructions of R77: host-side shorthand for one to three commands, each command taking the result of
the one before as its operand A. They are not commands of the block and have no encoding of their own. -/

namespace Sys2Proof

/-- The pseudo-instructions (R77). -/
inductive Pseudo where
  /-- `HIBYTE.u16xN`: the high bytes of 16-bit lanes. -/
  | hibyte (n : LaneCount)
  /-- `LOBYTE.u16xN`: the low bytes of 16-bit lanes. -/
  | lobyte (n : LaneCount)
  /-- `MOV.shape`: the operand itself. -/
  | mov (n : LaneCount) (e : ElemType)
  /-- `ISDIGIT.u8xN`: which lanes hold a decimal digit character. -/
  | isdigit (n : LaneCount)
  deriving DecidableEq, Repr

/-- The commands a pseudo-instruction expands to (R77). -/
def expand : Pseudo → List Instr
  | .hibyte n => [.shr n .u16 8, .narrow n]
  | .lobyte n => [.narrow n]
  | .mov n e => [.rotate n e 0]
  | .isdigit n => [.subs n .u8 0x30, .cmpgtu n .u8 9, .not n .bool]

namespace Machine

/-- The result bus of one command on the operands `a` and `b`, as the host sees it; none if it does not answer. -/
def resultOf (i : Instr) (a b : Bus) : Option Bus :=
  match exec i { State.reset with inFlight := some (requestWith (encode i) a b) } with
  | .next t => t.response.map Response.r
  | .fault _ => none
  | .refused _ => none

/-- The result of commands issued one after another, the result of each on operand A of the next (R53, R350). -/
def chainResult : List Instr → Bus → Option Bus
  | [], a => some a
  | i :: is, a => (resultOf i a 0).bind (chainResult is)

end Machine

end Sys2Proof
end

