-- ==== Sys2Proof/Safety.lean ====
section
/-! DEFINITION. The terms claims about the machine are made in: the bits of a bus as numbers, what it is for a command to answer,
the legal command words by the rules, the invariant of the block, and reference functions written without the lane operations
(a scalar base64 decoder, the fields of a dotted quad). -/

namespace Sys2Proof

open Machine

/-! ## The bits of a bus as numbers -/

/-- Lane `i` of a bus read as lanes of `w` bits, as a number: bits [w*i+w-1 : w*i] (R41). -/
def laneOf (w : Nat) (bus : Bus) (i : Nat) : Nat := bus.toNat / 2 ^ (w * i) % 2 ^ w

/-! ## Answering -/

/-- Executing `i` in `s` answers the request in flight: the next state differs from `s` in that the block is idle and the
response `resp` is pending, and in nothing else. -/
def Answers (i : Instr) (s : State) (resp : Response) : Prop :=
  exec i s = .next { s with inFlight := none, response := some resp }

/-- `i` answers OK with a vector result of `n` lanes of `w` bits, lane k being `lane k`, every bit of R above them 0, and no
payload (R22, R41, R42). -/
def AnswersLanes (i : Instr) (s : State) (n w : Nat) (lane : Nat → Nat) : Prop :=
  ∃ r : Bus, Answers i s { status := .ok, r := r, payload := [] } ∧
    (∀ k, k < n → laneOf w r k = lane k) ∧ r.toNat < 2 ^ (n * w)

/-- `i` answers OK with R equal to the number `x`, and no payload (R22, R140). -/
def AnswersScalar (i : Instr) (s : State) (x : Nat) : Prop :=
  ∃ r : Bus, Answers i s { status := .ok, r := r, payload := [] } ∧ r.toNat = x

/-- The response pending in the state an outcome reaches. -/
def pendingResponse : Host.Outcome State Fault Refusal → Option Response
  | .next t => t.response
  | .fault _ => none
  | .refused _ => none

/-- The response the block gives to a request when it has served none before: the step from reset with the request in flight. -/
def respondsTo (q : Request) : Option Response := pendingResponse (step { State.reset with inFlight := some q })

/-! ## Legal command words (30_encoding.md) -/

/-- One line of the table of R66: the operation code, the codes of NA and EA that are legal, whether the command has an index
vector of its own shape (`SWIZZLE`), and whether it has a scalar operand. -/
structure CommandRow where
  opc : Nat
  nas : List Nat
  eas : List Nat
  shapeB : Bool
  scalar : Bool
  deriving DecidableEq, Repr

/-- The 32 commands with their shapes (R62, R63, R64, R66). -/
def commandRows : List CommandRow :=
  [⟨0x01, [0, 1, 2], [0, 1], false, true⟩, ⟨0x02, [0, 1, 2], [0, 1], false, false⟩,
   ⟨0x03, [0, 1, 2], [0, 1], false, true⟩, ⟨0x04, [0, 1, 2], [0, 1], false, false⟩,
   ⟨0x05, [0, 1, 2], [0], false, true⟩, ⟨0x06, [0, 1, 2], [0], false, false⟩,
   ⟨0x07, [0, 1, 2], [0], false, true⟩, ⟨0x08, [0, 1, 2], [0], false, false⟩,
   ⟨0x10, [0, 1, 2], [0, 1], true, false⟩, ⟨0x11, [0, 1, 2], [0, 1, 2], false, true⟩,
   ⟨0x18, [0, 1, 2], [0, 1], false, true⟩] ++
  [⟨0x20, [0, 1, 2], [0, 1, 2], false, false⟩, ⟨0x21, [0, 1, 2], [2], false, false⟩,
   ⟨0x22, [0, 1, 2], [2], false, false⟩, ⟨0x23, [0, 1, 2], [0, 1, 2], false, false⟩,
   ⟨0x24, [0, 1, 2], [2], false, false⟩, ⟨0x25, [0, 1, 2], [2], false, false⟩] ++
  [⟨0x30, [0, 1, 2], [0, 1], false, false⟩, ⟨0x31, [0, 1, 2], [0, 1], false, false⟩,
   ⟨0x32, [0, 1, 2], [0, 1], false, true⟩, ⟨0x33, [0, 1, 2], [0, 1], false, true⟩,
   ⟨0x34, [0, 1, 2], [0, 1, 2], false, false⟩, ⟨0x35, [0, 1, 2], [0, 1], false, true⟩,
   ⟨0x36, [0, 1, 2], [0, 1, 2], false, false⟩, ⟨0x37, [0, 1, 2], [0, 1, 2], false, false⟩,
   ⟨0x38, [0, 1, 2], [0, 1], false, true⟩, ⟨0x39, [0, 1, 2], [2], false, false⟩,
   ⟨0x3A, [0, 1, 2], [0], false, false⟩, ⟨0x3B, [0, 1, 2], [1], false, false⟩] ++
  [⟨0x40, [0], [0], false, false⟩, ⟨0x41, [0], [0], false, true⟩, ⟨0x48, [2], [0], false, true⟩]

/-- A command word is legal (R74): a defined OPC (R70), a shape the command accepts (R71), operand-B codes as R72 says, an
unused IMM of 0 and a payload length of at most B64_MAX_LEN (R73). -/
def LegalWord (cmd : Cmd) : Prop :=
  ∃ row ∈ commandRows,
    cmd.toNat % 2 ^ 8 = row.opc ∧
    cmd.toNat / 2 ^ 8 % 4 ∈ row.nas ∧
    cmd.toNat / 2 ^ 10 % 4 ∈ row.eas ∧
    (if row.shapeB then cmd.toNat / 2 ^ 12 % 4 < 3 ∧ cmd.toNat / 2 ^ 14 % 4 < 2
      else cmd.toNat / 2 ^ 12 % 4 = 0 ∧ cmd.toNat / 2 ^ 14 % 4 = 0) ∧
    (row.scalar = true ∨ cmd.toNat / 2 ^ 16 = 0) ∧
    (row.opc = 0x41 → cmd.toNat / 2 ^ 16 ≤ Config.b64MaxLen.toNat)

/-- The word of `i` has these fields of format C (R61): what the Encoding line of a command's rule says. -/
def HasWord (i : Instr) (opc na ea nb eb imm : Nat) : Prop :=
  (encode i).toNat = opc + 2 ^ 8 * na + 2 ^ 10 * ea + 2 ^ 12 * nb + 2 ^ 14 * eb + 2 ^ 16 * imm

/-! ## The invariant of the block -/

/-- The shape of every response (R23, R26, R220, R301): ILLEGAL carries R = 0 and no payload, and a response with a payload is
an OK whose R is ok = 1 with the payload's length in R[31:16]. -/
def WellShaped (resp : Response) : Prop :=
  (resp.status = .illegal → resp.r = 0 ∧ resp.payload = []) ∧
  (resp.payload ≠ [] → resp.status = .ok ∧ resp.r.toNat = 1 + 2 ^ 16 * resp.payload.length)

/-- What holds of the machine at every step: a request is in flight only when no response is pending (R24), and every response,
pending or delivered, is well shaped. -/
def Inv (s : State) : Prop :=
  (s.inFlight = none ∨ s.response = none) ∧
  (∀ resp, s.response = some resp → WellShaped resp) ∧
  (∀ resp, resp ∈ s.delivered → WellShaped resp)

/-! ## What a command reads (R21, R42, R66) -/

/-- How many low bits of bus A a command may read. -/
def bitsOfA : Instr → Nat
  | .shr n w _ | .shrv n w | .shl n w _ | .shlv n w | .swizzle n w _ _ | .cmpeq n w _ => n.count * w.bits
  | .add n w | .sub n w | .subs n w _ | .muls n w _ | .ands n w _ | .cmpgtu n w _ => n.count * w.bits
  | .shrw n _ | .shrwv n | .shlw n _ | .shlwv n | .widen n => n.count * 8
  | .rotate n e _ | .ror n e | .rsum n e | .and n e | .or n e | .not n e => n.count * e.bits
  | .rall n | .rany n | .mask n | .ffs n | .btou n => n.count
  | .narrow n => n.count * 16
  | .b64chunk => 32
  | .b64decode _ => 0
  | .ip4parse _ => 128

/-- How many low bits of bus B a command may read: none unless R66 gives it a vector on B. -/
def bitsOfB : Instr → Nat
  | .shrv n w | .shlv n w | .add n w | .sub n w => n.count * w.bits
  | .shrwv n | .shlwv n => n.count * 8
  | .swizzle _ _ m x => m.count * x.bits
  | .and n e | .or n e => n.count * e.bits
  | .shr .. | .shl .. | .shrw .. | .shlw .. | .rotate .. | .cmpeq .. => 0
  | .ror .. | .rall .. | .rany .. | .rsum .. | .mask .. | .ffs .. => 0
  | .subs .. | .muls .. | .ands .. | .not .. | .cmpgtu .. | .btou .. | .widen .. | .narrow .. => 0
  | .b64chunk | .b64decode _ | .ip4parse _ => 0

/-- How many low bits of R a command may set; every bit above is 0 (R42, R66, R214, R220, R262). -/
def bitsOfR : Instr → Nat
  | .shr n w _ | .shrv n w | .shl n w _ | .shlv n w | .swizzle _ w n _ => n.count * w.bits
  | .add n w | .sub n w | .subs n w _ | .muls n w _ | .ands n w _ => n.count * w.bits
  | .shrw n _ | .shrwv n | .shlw n _ | .shlwv n | .widen n => n.count * 16
  | .rotate n e _ | .and n e | .or n e | .not n e => n.count * e.bits
  | .cmpeq n _ _ | .cmpgtu n _ _ | .mask n => n.count
  | .ror _ e => e.bits
  | .rall _ | .rany _ => 1
  | .rsum .. => 32
  | .ffs _ => 5
  | .btou n | .narrow n => n.count * 8
  | .b64chunk => 33
  | .b64decode _ => 32
  | .ip4parse _ => 56

/-! ## Base64 by characters -/

/-- The value of a character of the standard alphabet (R19, G2); none for every other byte. -/
def alphabetValue (c : Nat) : Option Nat :=
  if 0x41 ≤ c ∧ c ≤ 0x5A then some (c - 0x41)
  else if 0x61 ≤ c ∧ c ≤ 0x7A then some (c - 0x61 + 26)
  else if 0x30 ≤ c ∧ c ≤ 0x39 then some (c - 0x30 + 52)
  else if c = 0x2B then some 62
  else if c = 0x2F then some 63
  else none

/-- The three bytes of a 24-bit number, most significant first (R211). -/
def threeBytes (v : Nat) : List Byte := [BitVec.ofNat 8 (v / 2 ^ 16), BitVec.ofNat 8 (v / 2 ^ 8), BitVec.ofNat 8 v]

/-- The reference scalar decoder (R224): four characters at a time give the three bytes of their 24-bit number; none when a
character is outside the alphabet or characters are left over. -/
def referenceDecode : List Byte → Option (List Byte)
  | [] => some []
  | a :: b :: c :: d :: rest =>
    match alphabetValue a.toNat, alphabetValue b.toNat, alphabetValue c.toNat, alphabetValue d.toNat, referenceDecode rest with
    | some s0, some s1, some s2, some s3, some bytes =>
      some (threeBytes (s0 * 2 ^ 18 + s1 * 2 ^ 12 + s2 * 2 ^ 6 + s3) ++ bytes)
    | _, _, _, _, _ => none
  | _ => none

/-- The hash of a character (R203). -/
def hashOf (c : Nat) : Nat := c / 16 - (if c = 0x2F then 1 else 0)

/-- The 8-bit sextet of a character, valid or not (R204). -/
def sextetOf (c : Nat) : Nat := (c + [255, 16, 19, 4, 191, 191, 185, 185].getD (hashOf c) 0) % 256

/-- The validation mask of a character: zero when the tables of R49 and R50 admit it (R206). -/
def maskOfChar (c : Nat) : Nat :=
  [0x15, 0x11, 0x11, 0x11, 0x11, 0x11, 0x11, 0x11, 0x11, 0x11, 0x13, 0x1A, 0x1B, 0x1B, 0x1B, 0x1A].getD (c % 16) 0 &&&
    [0x10, 0x10, 0x01, 0x02, 0x04, 0x08, 0x04, 0x08, 0x10, 0x10, 0x10, 0x10, 0x10, 0x10, 0x10, 0x10].getD (c / 16) 0

/-- The three bytes of a chunk from its four sextets, garbage bits included (R215), as the number R[23:0]. -/
def chunkBytes (s0 s1 s2 s3 : Nat) : Nat :=
  (s0 * 4 % 256 ||| s1 / 16) + 2 ^ 8 * (s1 * 16 % 256 ||| s2 / 4) + 2 ^ 16 * (s2 * 64 % 256 ||| s3)

/-- The chunk data path as a host program of lane commands (95_test_vectors.md, program P1): the bus of bytes and the OR of the
validation masks. The tables stand on the buses as R76 has the host drive them. -/
def chunkProgram (ascii : Bus) : Option (Bus × Bus) := do
  let hi ← resultOf (.shr .n4 .u8 4) ascii 0
  let eq ← resultOf (.cmpeq .n4 .u8 0x2F) ascii 0
  let e ← resultOf (.btou .n4) eq 0
  let hash ← resultOf (.sub .n4 .u8) hi e
  let off ← resultOf (.swizzle .n8 .u8 .n4 .u8) 0xB9B9BFBF041310FF hash
  let sextets ← resultOf (.add .n4 .u8) ascii off
  let lo ← resultOf (.ands .n4 .u8 0x0F) ascii 0
  let l ← resultOf (.swizzle .n16 .u8 .n4 .u8) 0x1A1B1B1B1A1311111111111111111115 lo
  let h ← resultOf (.swizzle .n16 .u8 .n4 .u8) 0x10101010101010100804080402011010 hi
  let m ← resultOf (.and .n4 .u8) l h
  let red ← resultOf (.ror .n4 .u8) m 0
  let w ← resultOf (.shlwv .n4) sextets 0x08060402
  let low ← resultOf (.narrow .n4) w 0
  let t ← resultOf (.shr .n4 .u16 8) w 0
  let high ← resultOf (.narrow .n4) t 0
  let rh ← resultOf (.rotate .n4 .u8 1) high 0
  let dec ← resultOf (.or .n4 .u8) low rh
  let out ← resultOf (.swizzle .n4 .u8 .n4 .u8) dec 0x04020100
  return (out, red)

/-! ## Dotted quads by characters -/

/-- The first `len` characters on bus A (R230). -/
def charsOf (a : Bus) (len : Nat) : List Nat := (List.range len).map (laneOf 8 a)

/-- A decimal digit character. -/
abbrev IsDigit (c : Nat) : Prop := 0x30 ≤ c ∧ c ≤ 0x39

/-- A digit or a dot. -/
abbrev IsDigitOrDot (c : Nat) : Prop := IsDigit c ∨ c = 0x2E

/-- Four fields of digits, joined by dots (R230, R242). -/
def FourFields (chars : List Nat) (fields : List (List Nat)) : Prop :=
  fields.length = 4 ∧ (∀ f ∈ fields, ∀ c ∈ f, IsDigit c) ∧ chars = List.intercalate [0x2E] fields

/-- Where field `k` starts: the lengths of the fields before it and their dots (R242). -/
def fieldStart (fields : List (List Nat)) (k : Nat) : Nat := ((fields.take k).map (fun f => f.length + 1)).sum

/-- The value of a field of digits, read in decimal (R248). -/
def fieldValue (f : List Nat) : Nat := f.foldl (fun v c => 10 * v + (c - 0x30)) 0

/-- A field of legal length (R243). -/
abbrev GoodLength (f : List Nat) : Prop := 1 ≤ f.length ∧ f.length ≤ 3

/-- A field with a leading zero (R249): longer than one character, its first the digit 0. -/
abbrev LeadingZero (f : List Nat) : Prop := 2 ≤ f.length ∧ f.head? = some 0x30

/-- A field that step 10 lets pass (R250). -/
abbrev GoodOctet (f : List Nat) : Prop := ¬ LeadingZero f ∧ fieldValue f ≤ 255

/-- The result record of `IP4PARSE` as the number on R (R262). -/
def recordWord (octets kind pos len field char : Nat) : Nat :=
  octets + 2 ^ 32 * kind + 2 ^ 36 * pos + 2 ^ 40 * len + 2 ^ 44 * field + 2 ^ 48 * char

end Sys2Proof
end

