-- ==== Sys2Proof/Certificates/Slice0/Obligations.lean ====
section
/-! DEFINITION. The statements for the provers. A next state is written out as the state before with the fields that change, so
each statement is its instruction's frame as well. -/

open Sys2Proof Sys2Proof.Machine

/-! ## Encoding and decoding -/

/-- Decoding the word of a legal command gives the command, for every command with every operand (R61 to R66). -/
def Obligations.EncodedCommandDecodesToItself : Prop :=
  ∀ i : Instr, i.WellFormed → decode (encode i) = .ok i

/-- A word that decodes is the one word of the command it decodes to: no bit of a legal word is ignored (R72, R73, D6). -/
def Obligations.DecodedWordIsItsCommandsOnlyEncoding : Prop :=
  ∀ (cmd : Cmd) (i : Instr), decode cmd = .ok i → encode i = cmd ∧ i.WellFormed

/-- A command word decodes exactly when no rule of R70 to R73 makes it illegal (R74). -/
def Obligations.WordIsLegalExactlyByTheRules : Prop :=
  ∀ cmd : Cmd, (∃ i, decode cmd = .ok i) ↔ LegalWord cmd

/-- The worked encodings of R78 decode to the commands they are written for. -/
def Obligations.WorkedEncodingsDecode : Prop :=
  decode 0x00040001 = .ok (.shr .n4 .u8 4) ∧ decode 0x00080401 = .ok (.shr .n4 .u16 8) ∧
  decode 0x00000110 = .ok (.swizzle .n8 .u8 .n4 .u8) ∧ decode 0x00000210 = .ok (.swizzle .n16 .u8 .n4 .u8) ∧
  decode 0x002E0218 = .ok (.cmpeq .n16 .u8 0x2E) ∧ decode 0x00000A21 = .ok (.rall .n16) ∧
  decode 0x00000040 = .ok .b64chunk ∧ decode 0x000B0248 = .ok (.ip4parse 11)

/-! ## The transaction interface -/

/-- With a request in flight whose word decodes, no response pending and reset low, the step is the execution of the decoded
command (the reset line moving on to its next sample, which is the model's own; log 3). -/
def Obligations.StepRunsTheDecodedCommand : Prop :=
  ∀ (s : State) (q : Request) (i : Instr), s.resetLine.head? ≠ some true → s.response = none → s.inFlight = some q →
    decode q.cmd = .ok i → step s = exec i { s with resetLine := s.resetLine.tail }

/-- The exception Illegal (R301): a word that is not legal is answered with STATUS = 1, R = 0 and no payload, whatever the
operands, and nothing else of the block changes; the block is idle again. That the reset line moves on to its next sample is
the model's choice (log 3). -/
def Obligations.IllegalWordIsAnsweredIllegal : Prop :=
  Status.illegal.code = 1 ∧
  ∀ (s : State) (q : Request), s.resetLine.head? ≠ some true → s.response = none → s.inFlight = some q →
    ¬ LegalWord q.cmd →
    step s = .next { s with
      inFlight := none
      response := some { status := .illegal, r := 0, payload := [] }
      resetLine := s.resetLine.tail }

/-- What the block does when it executes nothing. Idle, with a request presented, it accepts the first and leaves the others;
idle, with none presented, it stays idle (R324); with a response pending, it delivers that response. R24 gives the order
accept, answer, accept; that each is one step and that a pending response is delivered at the very next step, the host being
always ready, is the model's choice (log 1), as are the two lists of the host (log 2) and the reset line that moves on to its
next sample (log 3). -/
def Obligations.BlockAcceptsAndDeliversInOrder : Prop :=
  (∀ (s : State) (q : Request) (rest : List Request), s.resetLine.head? ≠ some true → s.response = none →
    s.inFlight = none → s.requests = q :: rest →
    step s = .next { s with inFlight := some q, requests := rest, resetLine := s.resetLine.tail }) ∧
  (∀ s : State, s.resetLine.head? ≠ some true → s.response = none → s.inFlight = none → s.requests = [] →
    step s = .next { s with resetLine := s.resetLine.tail }) ∧
  (∀ (s : State) (resp : Response), s.resetLine.head? ≠ some true → s.response = some resp →
    step s = .next { s with response := none, delivered := s.delivered ++ [resp], resetLine := s.resetLine.tail })

/-- No state stops the machine: every step goes on, none faults or refuses (R27, R300, R351). -/
def Obligations.EveryStepGoesOn : Prop :=
  ∀ s : State, ∃ t : State, step s = .next t

/-- The invariant holds of the machine after reset. -/
def Obligations.InvariantHoldsAfterReset : Prop := Inv State.reset

/-- Every step keeps the invariant: one transaction at a time (R24), and every response well shaped (R26, R301). -/
def Obligations.StepKeepsTheInvariant : Prop :=
  ∀ s t : State, Inv s → step s = .next t → Inv t

/-- After reset the block is idle: no transaction is in progress and no response is pending (R341). That the host's requests
and the responses it has consumed stay as they are is the model's choice (log 2, log 3). -/
def Obligations.ResetLeavesTheBlockIdle : Prop :=
  State.reset.inFlight = none ∧ State.reset.response = none ∧
  ∀ s : State, s.resetLine.head? = some true →
    step s = .next { s with inFlight := none, response := none, resetLine := s.resetLine.tail }

/-- A request abandoned at reset produces no response, and its repeat after reset gives the one response that it would have
been given (R343). -/
def Obligations.AbandonedRequestIsAnsweredWhenRepeated : Prop :=
  ∀ (s : State) (q : Request), s.inFlight = some q → s.requests = [q] → s.resetLine = [true] →
    ∃ resp, respondsTo q = some resp ∧
      core.run 4 s = .next { s with
        inFlight := none, response := none, requests := [], resetLine := [], delivered := s.delivered ++ [resp] }

/-- A sequence of requests is answered one by one, in order, each with the response it would get on its own (R24): the responses
delivered are the pointwise map of one function of the request. That this takes three steps for each request is the model's
choice (log 1). -/
def Obligations.RequestsAreAnsweredPointwiseInOrder : Prop :=
  ∀ s : State, s.inFlight = none → s.response = none → s.resetLine = [] →
    ∃ responses : List Response, s.requests.map respondsTo = responses.map some ∧
      core.run (3 * s.requests.length) s = .next { s with requests := [], delivered := s.delivered ++ responses }

/-- The response is a function of the request in flight and of nothing else (R24): not of what was served before, of what waits,
or of any other part of the state. -/
def Obligations.ResponseDependsOnItsRequestOnly : Prop :=
  ∀ (s t : State) (q : Request), s.inFlight = some q → t.inFlight = some q → s.response = none → t.response = none →
    s.resetLine.head? ≠ some true → t.resetLine.head? ≠ some true →
    ∃ resp, pendingResponse (step s) = some resp ∧ pendingResponse (step t) = some resp

/-- Bits of A and B above a command's operands are ignored, and bits of R above its result are 0 (R42). -/
def Obligations.BitsOutsideTheOperandsAreIgnored : Prop :=
  ∀ (i : Instr) (s : State) (q q' : Request),
    q.a.toNat % 2 ^ bitsOfA i = q'.a.toNat % 2 ^ bitsOfA i → q.b.toNat % 2 ^ bitsOfB i = q'.b.toNat % 2 ^ bitsOfB i →
    q.payload = q'.payload →
    ∃ resp, exec i { s with inFlight := some q } = .next { s with inFlight := none, response := some resp } ∧
      exec i { s with inFlight := some q' } = .next { s with inFlight := none, response := some resp } ∧
      resp.r.toNat < 2 ^ bitsOfR i

/-! ## Shifts -/

/-- `SHR` and `SHL` shift every lane by IMM; an amount of W or more gives 0 (R100, R101, R103). -/
def Obligations.ShiftsByAScalar : Prop :=
  ∀ (n : LaneCount) (w : LaneWidth) (imm : BitVec 16) (s : State) (q : Request), s.inFlight = some q →
    HasWord (.shr n w imm) 0x01 n.code.toNat w.code.toNat 0 0 imm.toNat ∧
    HasWord (.shl n w imm) 0x03 n.code.toNat w.code.toNat 0 0 imm.toNat ∧
    AnswersLanes (.shr n w imm) s n.count w.bits
      (fun k => if imm.toNat < w.bits then laneOf w.bits q.a k / 2 ^ imm.toNat else 0) ∧
    AnswersLanes (.shl n w imm) s n.count w.bits
      (fun k => if imm.toNat < w.bits then laneOf w.bits q.a k * 2 ^ imm.toNat % 2 ^ w.bits else 0)

/-- `SHRV` and `SHLV` shift every lane by its own lane of b; an amount of W or more gives 0 (R100, R102, R104). -/
def Obligations.ShiftsByLanes : Prop :=
  ∀ (n : LaneCount) (w : LaneWidth) (s : State) (q : Request), s.inFlight = some q →
    HasWord (.shrv n w) 0x02 n.code.toNat w.code.toNat 0 0 0 ∧
    HasWord (.shlv n w) 0x04 n.code.toNat w.code.toNat 0 0 0 ∧
    AnswersLanes (.shrv n w) s n.count w.bits
      (fun k => if laneOf w.bits q.b k < w.bits then laneOf w.bits q.a k / 2 ^ laneOf w.bits q.b k else 0) ∧
    AnswersLanes (.shlv n w) s n.count w.bits
      (fun k => if laneOf w.bits q.b k < w.bits then laneOf w.bits q.a k * 2 ^ laneOf w.bits q.b k % 2 ^ w.bits else 0)

/-- `SHRW` and `SHLW` widen `u8` lanes to 16 bits and shift by IMM (R100, R105, R107). -/
def Obligations.WideningShiftsByAScalar : Prop :=
  ∀ (n : LaneCount) (imm : BitVec 16) (s : State) (q : Request), s.inFlight = some q →
    HasWord (.shrw n imm) 0x05 n.code.toNat 0 0 0 imm.toNat ∧
    HasWord (.shlw n imm) 0x07 n.code.toNat 0 0 0 imm.toNat ∧
    AnswersLanes (.shrw n imm) s n.count 16
      (fun k => if imm.toNat < 16 then laneOf 8 q.a k / 2 ^ imm.toNat else 0) ∧
    AnswersLanes (.shlw n imm) s n.count 16
      (fun k => if imm.toNat < 16 then laneOf 8 q.a k * 2 ^ imm.toNat % 2 ^ 16 else 0)

/-- `SHRWV` and `SHLWV` widen `u8` lanes to 16 bits and shift by the `u8` lanes of b (R100, R106, R108). -/
def Obligations.WideningShiftsByLanes : Prop :=
  ∀ (n : LaneCount) (s : State) (q : Request), s.inFlight = some q →
    HasWord (.shrwv n) 0x06 n.code.toNat 0 0 0 0 ∧
    HasWord (.shlwv n) 0x08 n.code.toNat 0 0 0 0 ∧
    AnswersLanes (.shrwv n) s n.count 16
      (fun k => if laneOf 8 q.b k < 16 then laneOf 8 q.a k / 2 ^ laneOf 8 q.b k else 0) ∧
    AnswersLanes (.shlwv n) s n.count 16
      (fun k => if laneOf 8 q.b k < 16 then laneOf 8 q.a k * 2 ^ laneOf 8 q.b k % 2 ^ 16 else 0)

/-- Relations of the shift commands by a scalar (from the spec's own derivation in R109, whose relations of the per-lane shifts
are not stated here): `SHR` after `SHR` shifts by the sum of the amounts; `SHLW` is `WIDEN` followed by the 16-bit `SHL`; `SHRW`
is the 8-bit `SHR` followed by `WIDEN`. -/
def Obligations.ShrAddsItsAmountsAndScalarWideningShiftsSplit : Prop :=
  (∀ (n : LaneCount) (w : LaneWidth) (x y : BitVec 16) (a : Bus), x.toNat + y.toNat ≤ 65535 →
    ∃ r, resultOf (.shr n w (x + y)) a 0 = some r ∧ chainResult [.shr n w x, .shr n w y] a = some r) ∧
  (∀ (n : LaneCount) (x : BitVec 16) (a : Bus), ∃ r,
    resultOf (.shlw n x) a 0 = some r ∧ chainResult [.widen n, .shl n .u16 x] a = some r) ∧
  (∀ (n : LaneCount) (x : BitVec 16) (a : Bus), ∃ r,
    resultOf (.shrw n x) a 0 = some r ∧ chainResult [.shr n .u8 x, .widen n] a = some r)

/-! ## Gather and permutation -/

/-- `SWIZZLE` (R120): lane k is the table's lane at index lane k, or 0 when the index, at its full width, is out of bounds. The
result has the index vector's lane count and the table's element type. -/
def Obligations.SwizzleLooksUpItsTable : Prop :=
  ∀ (n : LaneCount) (w : LaneWidth) (m : LaneCount) (x : LaneWidth) (s : State) (q : Request), s.inFlight = some q →
    HasWord (.swizzle n w m x) 0x10 n.code.toNat w.code.toNat m.code.toNat x.code.toNat 0 ∧
    AnswersLanes (.swizzle n w m x) s m.count w.bits
      (fun k => if laneOf x.bits q.b k < n.count then laneOf w.bits q.a (laneOf x.bits q.b k) else 0)

/-- `ROTATE` (R121): lane k of the result is lane (k + IMM) mod N of a. -/
def Obligations.RotateMovesLanePositions : Prop :=
  ∀ (n : LaneCount) (e : ElemType) (imm : BitVec 16) (s : State) (q : Request), s.inFlight = some q →
    HasWord (.rotate n e imm) 0x11 n.code.toNat e.code.toNat 0 0 imm.toNat ∧
    AnswersLanes (.rotate n e imm) s n.count e.bits (fun k => laneOf e.bits q.a ((k + imm.toNat) % n.count))

/-- Laws of `ROTATE` (the spec's own derivation, R122): two rotations are one by the sum modulo N, and the reductions `ROR`,
`RALL`, `RANY` and `RSUM` do not see a rotation (`MASK` and `FFS` do, and are not in this statement). -/
def Obligations.RotationsComposeAndRorRallRanyRsumIgnoreThem : Prop :=
  (∀ (n : LaneCount) (e : ElemType) (x y z : BitVec 16) (a : Bus), z.toNat = (x.toNat + y.toNat) % n.count →
    ∃ r, resultOf (.rotate n e z) a 0 = some r ∧ chainResult [.rotate n e x, .rotate n e y] a = some r) ∧
  (∀ (n : LaneCount) (e : ElemType) (x : BitVec 16) (a : Bus), ∃ r r', resultOf (.ror n e) a 0 = some r ∧
    chainResult [.rotate n e x, .ror n e] a = some r ∧ resultOf (.rsum n e) a 0 = some r' ∧
    chainResult [.rotate n e x, .rsum n e] a = some r') ∧
  (∀ (n : LaneCount) (x : BitVec 16) (a : Bus), ∃ r r', resultOf (.rall n) a 0 = some r ∧
    chainResult [.rotate n .bool x, .rall n] a = some r ∧ resultOf (.rany n) a 0 = some r' ∧
    chainResult [.rotate n .bool x, .rany n] a = some r')

/-- `ROTATE` is a `SWIZZLE` by rotated indices (the spec's own derivation, R123). -/
def Obligations.RotateIsASwizzleByRotatedIndices : Prop :=
  ∀ (n : LaneCount) (w x : LaneWidth) (imm : BitVec 16) (a idx : Bus),
    (∀ k, k < n.count → laneOf x.bits idx k = (k + imm.toNat) % n.count) →
    ∃ r, resultOf (.rotate n (match w with | .u8 => .u8 | .u16 => .u16) imm) a 0 = some r ∧
      resultOf (.swizzle n w n x) a idx = some r

/-! ## Comparisons -/

/-- `CMPEQ` and `CMPGTU` (R130, R179): one boolean lane per lane of a, compared with the whole 16-bit IMM as integers. -/
def Obligations.ComparisonsWithAScalar : Prop :=
  ∀ (n : LaneCount) (w : LaneWidth) (imm : BitVec 16) (s : State) (q : Request), s.inFlight = some q →
    HasWord (.cmpeq n w imm) 0x18 n.code.toNat w.code.toNat 0 0 imm.toNat ∧
    HasWord (.cmpgtu n w imm) 0x38 n.code.toNat w.code.toNat 0 0 imm.toNat ∧
    AnswersLanes (.cmpeq n w imm) s n.count 1 (fun k => if laneOf w.bits q.a k = imm.toNat then 1 else 0) ∧
    AnswersLanes (.cmpgtu n w imm) s n.count 1 (fun k => if imm.toNat < laneOf w.bits q.a k then 1 else 0)

/-! ## Reductions -/

/-- `ROR` (R141): bit j of the result is set iff bit j is set in at least one lane. -/
def Obligations.RorHasTheBitsOfItsLanes : Prop :=
  ∀ (n : LaneCount) (e : ElemType) (s : State) (q : Request), s.inFlight = some q →
    HasWord (.ror n e) 0x20 n.code.toNat e.code.toNat 0 0 0 ∧
    ∃ r : Bus, Answers (.ror n e) s { status := .ok, r := r, payload := [] } ∧ r.toNat < 2 ^ e.bits ∧
      ∀ j, r.toNat.testBit j = true ↔ ∃ k, k < n.count ∧ (laneOf e.bits q.a k).testBit j = true

/-- `RALL` and `RANY` (R142, R143): all lanes true, and at least one lane true, in R[0]. -/
def Obligations.RallAndRanyReduceBooleans : Prop :=
  ∀ (n : LaneCount) (s : State) (q : Request), s.inFlight = some q →
    HasWord (.rall n) 0x21 n.code.toNat 2 0 0 0 ∧
    HasWord (.rany n) 0x22 n.code.toNat 2 0 0 0 ∧
    AnswersScalar (.rall n) s (if ∀ k, k < n.count → laneOf 1 q.a k = 1 then 1 else 0) ∧
    AnswersScalar (.rany n) s (if ∀ k, k < n.count → laneOf 1 q.a k = 0 then 0 else 1)

/-- `RSUM` (R144): the exact sum of the lanes, with no wrap-around. -/
def Obligations.RsumIsTheExactSum : Prop :=
  ∀ (n : LaneCount) (e : ElemType) (s : State) (q : Request), s.inFlight = some q →
    HasWord (.rsum n e) 0x23 n.code.toNat e.code.toNat 0 0 0 ∧
    AnswersScalar (.rsum n e) s (∑ k ∈ Finset.range n.count, laneOf e.bits q.a k) ∧
    ∑ k ∈ Finset.range n.count, laneOf e.bits q.a k ≤ 16 * 65535

/-- `MASK` (R145): the sum of 2^k over the true lanes k. -/
def Obligations.MaskPacksBooleans : Prop :=
  ∀ (n : LaneCount) (s : State) (q : Request), s.inFlight = some q →
    HasWord (.mask n) 0x24 n.code.toNat 2 0 0 0 ∧
    AnswersScalar (.mask n) s (∑ k ∈ Finset.range n.count, if laneOf 1 q.a k = 1 then 2 ^ k else 0)

/-- `FFS` (R146): the least true lane; N when there is none; the count of trailing zeros of what `MASK` answers. -/
def Obligations.FfsIsTheFirstTrueLane : Prop :=
  ∀ (n : LaneCount) (s : State) (q : Request), s.inFlight = some q →
    HasWord (.ffs n) 0x25 n.code.toNat 2 0 0 0 ∧
    (∀ k, k < n.count → laneOf 1 q.a k = 1 → (∀ j, j < k → laneOf 1 q.a j = 0) → AnswersScalar (.ffs n) s k) ∧
    ((∀ k, k < n.count → laneOf 1 q.a k = 0) → AnswersScalar (.ffs n) s n.count) ∧
    ∃ m : Bus, resultOf (.mask n) q.a 0 = some m ∧ AnswersScalar (.ffs n) s (tzcnt (m.setWidth n.count))

/-- `MASK` gives A[N-1:0] (the spec's own derivation in R145), and `FFS` counts its trailing zeros (R16, R146): N for a zero
mask, else the k for which 2^k divides the mask and leaves an odd number. -/
def Obligations.FfsCountsTheTrailingZerosOfMask : Prop :=
  ∀ (n : LaneCount) (a : Bus), ∃ m f, resultOf (.mask n) a 0 = some m ∧ resultOf (.ffs n) a 0 = some f ∧
    m.toNat = a.toNat % 2 ^ n.count ∧ (m.toNat = 0 → f.toNat = n.count) ∧
    (m.toNat ≠ 0 → 2 ^ f.toNat ∣ m.toNat ∧ m.toNat / 2 ^ f.toNat % 2 = 1)

/-! ## Elementwise helpers -/

/-- `ADD` and `SUB` wrap modulo 2^W (R161, R170, R171). -/
def Obligations.AddAndSubWrap : Prop :=
  ∀ (n : LaneCount) (w : LaneWidth) (s : State) (q : Request), s.inFlight = some q →
    HasWord (.add n w) 0x30 n.code.toNat w.code.toNat 0 0 0 ∧
    HasWord (.sub n w) 0x31 n.code.toNat w.code.toNat 0 0 0 ∧
    AnswersLanes (.add n w) s n.count w.bits
      (fun k => (laneOf w.bits q.a k + laneOf w.bits q.b k) % 2 ^ w.bits) ∧
    AnswersLanes (.sub n w) s n.count w.bits
      (fun k => (laneOf w.bits q.a k + 2 ^ w.bits - laneOf w.bits q.b k) % 2 ^ w.bits)

/-- `SUBS`, `MULS` and `ANDS` take the scalar IMM mod 2^W (R172, R173, R175). -/
def Obligations.ScalarArithmeticReducesTheScalar : Prop :=
  ∀ (n : LaneCount) (w : LaneWidth) (imm : BitVec 16) (s : State) (q : Request), s.inFlight = some q →
    HasWord (.subs n w imm) 0x32 n.code.toNat w.code.toNat 0 0 imm.toNat ∧
    HasWord (.muls n w imm) 0x33 n.code.toNat w.code.toNat 0 0 imm.toNat ∧
    HasWord (.ands n w imm) 0x35 n.code.toNat w.code.toNat 0 0 imm.toNat ∧
    AnswersLanes (.subs n w imm) s n.count w.bits
      (fun k => (laneOf w.bits q.a k + 2 ^ w.bits - imm.toNat % 2 ^ w.bits) % 2 ^ w.bits) ∧
    AnswersLanes (.muls n w imm) s n.count w.bits
      (fun k => laneOf w.bits q.a k * (imm.toNat % 2 ^ w.bits) % 2 ^ w.bits) ∧
    AnswersLanes (.ands n w imm) s n.count w.bits
      (fun k => laneOf w.bits q.a k &&& (imm.toNat % 2 ^ w.bits))

/-- `AND` and `OR` are bitwise, on integer and boolean lanes alike (R174, R176). -/
def Obligations.AndAndOrAreBitwise : Prop :=
  ∀ (n : LaneCount) (e : ElemType) (s : State) (q : Request), s.inFlight = some q →
    HasWord (.and n e) 0x34 n.code.toNat e.code.toNat 0 0 0 ∧
    HasWord (.or n e) 0x36 n.code.toNat e.code.toNat 0 0 0 ∧
    AnswersLanes (.and n e) s n.count e.bits (fun k => laneOf e.bits q.a k &&& laneOf e.bits q.b k) ∧
    AnswersLanes (.or n e) s n.count e.bits (fun k => laneOf e.bits q.a k ||| laneOf e.bits q.b k)

/-- `NOT` inverts the bits of the lanes and no other bit of R (R178). -/
def Obligations.NotComplementsItsLanes : Prop :=
  ∀ (n : LaneCount) (e : ElemType) (s : State) (q : Request), s.inFlight = some q →
    HasWord (.not n e) 0x37 n.code.toNat e.code.toNat 0 0 0 ∧
    AnswersLanes (.not n e) s n.count e.bits (fun k => 2 ^ e.bits - 1 - laneOf e.bits q.a k)

/-- `BTOU`, `WIDEN` and `NARROW` convert lane types (R180, R181, R182). -/
def Obligations.ConversionsBetweenLaneTypes : Prop :=
  ∀ (n : LaneCount) (s : State) (q : Request), s.inFlight = some q →
    HasWord (.btou n) 0x39 n.code.toNat 2 0 0 0 ∧
    HasWord (.widen n) 0x3A n.code.toNat 0 0 0 0 ∧
    HasWord (.narrow n) 0x3B n.code.toNat 1 0 0 0 ∧
    AnswersLanes (.btou n) s n.count 8 (fun k => if laneOf 1 q.a k = 1 then 1 else 0) ∧
    AnswersLanes (.widen n) s n.count 16 (fun k => laneOf 8 q.a k) ∧
    AnswersLanes (.narrow n) s n.count 8 (fun k => laneOf 16 q.a k % 256)

/-- Laws of the elementwise commands (the spec's own derivation, R183): subtracting what was added gives the lanes back, and De
Morgan's law on booleans. -/
def Obligations.ElementwiseLaws : Prop :=
  (∀ (n : LaneCount) (w : LaneWidth) (a b : Bus), ∃ x r, resultOf (.add n w) a b = some x ∧
    resultOf (.sub n w) x b = some r ∧ r.toNat = a.toNat % 2 ^ (n.count * w.bits)) ∧
  (∀ (n : LaneCount) (a b : Bus), ∃ x y z r, resultOf (.or n .bool) a b = some x ∧
    resultOf (.not n .bool) x 0 = some r ∧
    resultOf (.not n .bool) a 0 = some y ∧ resultOf (.not n .bool) b 0 = some z ∧ resultOf (.and n .bool) y z = some r)

/-- The pseudo-instruction `ISDIGIT` (R77): its three commands tell the decimal digit characters, as the spec derives in R179. -/
def Obligations.IsDigitTellsDigits : Prop :=
  ∀ (n : LaneCount) (a : Bus), ∃ r, chainResult (expand (.isdigit n)) a = some r ∧
    (∀ k, k < n.count → laneOf 1 r k = if IsDigit (laneOf 8 a k) then 1 else 0) ∧ r.toNat < 2 ^ n.count

/-- The pseudo-instructions `HIBYTE`, `LOBYTE` and `MOV` (R77): the high bytes, the low bytes, and the operand itself. -/
def Obligations.BytePseudoInstructions : Prop :=
  (∀ (n : LaneCount) (a : Bus), ∃ hi lo, chainResult (expand (.hibyte n)) a = some hi ∧
    chainResult (expand (.lobyte n)) a = some lo ∧
    ∀ k, k < n.count → laneOf 16 a k = 256 * laneOf 8 hi k + laneOf 8 lo k) ∧
  (∀ (n : LaneCount) (e : ElemType) (a : Bus), ∃ r, chainResult (expand (.mov n e)) a = some r ∧
    r.toNat = a.toNat % 2 ^ (n.count * e.bits))

/-! ## Base64 -/

/-- `B64CHUNK` (R214, R215): the three bytes that the sextets give, whether or not the chunk is valid, and `valid` in R[32], set
iff the validation masks of all four characters are 0. -/
def Obligations.ChunkAnswersItsBytesAndValidity : Prop :=
  ∀ (s : State) (q : Request), s.inFlight = some q →
    HasWord .b64chunk 0x40 0 0 0 0 0 ∧
    AnswersScalar .b64chunk s
      (chunkBytes (sextetOf (laneOf 8 q.a 0)) (sextetOf (laneOf 8 q.a 1)) (sextetOf (laneOf 8 q.a 2)) (sextetOf (laneOf 8 q.a 3))
        + 2 ^ 32 * (if ∀ k ∈ List.range 4, maskOfChar (laneOf 8 q.a k) = 0 then 1 else 0))

/-- A chunk is valid iff its four characters are all in the standard alphabet (what the spec derives in R207). -/
def Obligations.ChunkIsValidExactlyForTheAlphabet : Prop :=
  ∀ (s : State) (q : Request), s.inFlight = some q →
    ∃ r : Bus, Answers .b64chunk s { status := .ok, r := r, payload := [] } ∧
      r.toNat / 2 ^ 32 = if ∀ k ∈ List.range 4, alphabetValue (laneOf 8 q.a k) ≠ none then 1 else 0

/-- The bytes of a valid chunk are those of the 24-bit number of its four values, most significant first (what the spec derives
in R211). -/
def Obligations.ValidChunkGivesTheBytesOfItsNumber : Prop :=
  ∀ (s : State) (q : Request) (v : Nat → Nat), s.inFlight = some q →
    (∀ k, k < 4 → alphabetValue (laneOf 8 q.a k) = some (v k)) →
    ∃ r : Bus, Answers .b64chunk s { status := .ok, r := r, payload := [] } ∧ r.toNat / 2 ^ 24 = 2 ^ 8 ∧
      (List.range 3).map (fun j => BitVec.ofNat 8 (laneOf 8 r j)) =
        threeBytes (v 0 * 2 ^ 18 + v 1 * 2 ^ 12 + v 2 * 2 ^ 6 + v 3)

/-- `B64CHUNK` and the lane program P1 agree on every chunk: the pipeline is the composition of lane commands it is said to be
(D13, 95_test_vectors.md section 10). -/
def Obligations.ChunkCommandEqualsItsLaneProgram : Prop :=
  ∀ ascii : Bus, ∃ out red r, chunkProgram ascii = some (out, red) ∧ resultOf .b64chunk ascii 0 = some r ∧
    r.toNat % 2 ^ 24 = out.toNat % 2 ^ 24 ∧ r.toNat / 2 ^ 24 = if red = 0 then 2 ^ 8 else 0

/-- `B64DECODE`: its encoding (R220), and that it is the reference scalar decoder on every payload in flight (what R224 asks for):
on success R has ok = 1 and the number of bytes, and the payload is the decoded bytes; on failure R is 0 and there is no
payload. Which payloads can be in flight with which word is said by the two statements that follow (log 5, log 10). -/
def Obligations.BufferDecodeMatchesTheReference : Prop :=
  ∀ (len : BitVec 16) (s : State) (q : Request), s.inFlight = some q →
    HasWord (.b64decode len) 0x41 0 0 0 0 len.toNat ∧
    ∃ r : Bus, Answers (.b64decode len) s { status := .ok, r := r, payload := (referenceDecode q.payload).getD [] } ∧
      r.toNat = match referenceDecode q.payload with
        | some bytes => 1 + 2 ^ 16 * bytes.length
        | none => 0

/-- The payload of a request belongs to its command word (R26, R346): whatever B64_MAX_LEN is, a word that decodes to
`B64DECODE` with L = len carries len bytes, and a word that decodes to another command carries none; and every list of at most
65535 bytes is the payload of a request with the word of `B64DECODE` for its length. The form of the payload, and that the
length is tied to the word, are the model's (log 5, log 10). -/
def Obligations.PayloadHasTheLengthOfItsWord : Prop :=
  (∀ (maxLen len : BitVec 16) (q : Request), decodeUnder maxLen q.cmd = .ok (.b64decode len) → q.payload.length = len.toNat) ∧
  (∀ (maxLen : BitVec 16) (i : Instr) (q : Request), decodeUnder maxLen q.cmd = .ok i → (∀ len, i ≠ .b64decode len) →
    q.payload = []) ∧
  (∀ bytes : List Byte, bytes.length ≤ 65535 →
    ∃ q : Request, q.payload = bytes ∧ q.cmd.toNat = 0x41 + 2 ^ 16 * bytes.length)

/-- Every payload of at most B64_MAX_LEN bytes is decoded (R26, R220): there is a request that carries it with the word
0x00000041 + L * 2^16, and the step with that request in flight answers what the reference decoder gives. That the reset line
moves on is the model's choice (log 3). -/
def Obligations.EveryPayloadWithinTheLimitIsDecoded : Prop :=
  ∀ bytes : List Byte, bytes.length ≤ Config.b64MaxLen.toNat →
    ∃ (q : Request) (r : Bus), q.payload = bytes ∧ q.cmd.toNat = 0x41 + 2 ^ 16 * bytes.length ∧
      (r.toNat = match referenceDecode bytes with
        | some decoded => 1 + 2 ^ 16 * decoded.length
        | none => 0) ∧
      ∀ s : State, s.resetLine.head? ≠ some true → s.response = none → s.inFlight = some q →
        step s = .next { s with
          inFlight := none
          response := some { status := .ok, r := r, payload := (referenceDecode bytes).getD [] }
          resetLine := s.resetLine.tail }

/-- A failed decode (R305): a payload whose length is not a multiple of 4, or with a character outside the alphabet, is answered
OK with R = 0 and no payload; the empty payload is no failure. -/
def Obligations.FailedBufferDecodeAnswersNothing : Prop :=
  (∀ (len : BitVec 16) (s : State) (q : Request), s.inFlight = some q →
    (q.payload.length % 4 ≠ 0 ∨ ∃ c ∈ q.payload, alphabetValue c.toNat = none) →
    Answers (.b64decode len) s { status := .ok, r := 0, payload := [] }) ∧
  (∀ (len : BitVec 16) (s : State) (q : Request), s.inFlight = some q → q.payload = [] →
    Answers (.b64decode len) s { status := .ok, r := 1, payload := [] })

/-- A successful decode is the concatenation of what `B64CHUNK` answers for its chunks (R221 step 4): byte j of chunk c stands at
3c + j. -/
def Obligations.BufferDecodeConcatenatesItsChunks : Prop :=
  ∀ (len : BitVec 16) (s : State) (q : Request), s.inFlight = some q → q.payload.length % 4 = 0 →
    (∀ c ∈ q.payload, alphabetValue c.toNat ≠ none) →
    ∃ resp : Response, Answers (.b64decode len) s resp ∧ 4 * resp.payload.length = 3 * q.payload.length ∧
      ∀ c, 4 * c + 3 < q.payload.length →
        ∃ r, resultOf .b64chunk (packList ((q.payload.drop (4 * c)).take 4)) 0 = some r ∧ r.toNat / 2 ^ 32 = 1 ∧
          ∀ j, j < 3 → (resp.payload.getD (3 * c + j) 0).toNat = laneOf 8 r j

/-! ## IPv4 -/

/-- The length gate (R231): a length below 7 or above 15 is `TOO_SHORT_OR_LONG`, with no locator. -/
def Obligations.LengthGateRejects : Prop :=
  ∀ (len : BitVec 16) (s : State) (q : Request), s.inFlight = some q → len.toNat < 7 ∨ 15 < len.toNat →
    AnswersScalar (.ip4parse len) s (recordWord 0 1 0 0 0 0)

/-- An unexpected character (R236, R263): the first position of the string that holds neither a digit nor a dot is named, with
its byte; a zero byte inside the string is one (R234). -/
def Obligations.UnexpectedCharacterIsLocated : Prop :=
  ∀ (len : BitVec 16) (s : State) (q : Request) (p : Nat), s.inFlight = some q → 7 ≤ len.toNat → len.toNat ≤ 15 →
    p < len.toNat → ¬ IsDigitOrDot (laneOf 8 q.a p) → (∀ j, j < p → IsDigitOrDot (laneOf 8 q.a j)) →
    AnswersScalar (.ip4parse len) s (recordWord 0 2 p 1 0 (laneOf 8 q.a p))

/-- The dot count (R237): digits and dots only, but not exactly three dots, is `INVALID_DOT_COUNT`. -/
def Obligations.WrongDotCountRejects : Prop :=
  ∀ (len : BitVec 16) (s : State) (q : Request), s.inFlight = some q → 7 ≤ len.toNat → len.toNat ≤ 15 →
    (∀ j, j < len.toNat → IsDigitOrDot (laneOf 8 q.a j)) → (charsOf q.a len.toNat).count 0x2E ≠ 3 →
    AnswersScalar (.ip4parse len) s (recordWord 0 3 0 0 0 0)

/-- A field of bad length (R244, R263): the lowest-numbered field whose length is not 1, 2 or 3 is named. -/
def Obligations.BadFieldLengthIsLocated : Prop :=
  ∀ (len : BitVec 16) (s : State) (q : Request) (fields : List (List Nat)) (k : Nat) (f : List Nat),
    s.inFlight = some q → 7 ≤ len.toNat → len.toNat ≤ 15 → FourFields (charsOf q.a len.toNat) fields →
    fields[k]? = some f → ¬ GoodLength f → (∀ j g, j < k → fields[j]? = some g → GoodLength g) →
    AnswersScalar (.ip4parse len) s (recordWord 0 4 (fieldStart fields k) f.length k 0)

/-- A failing field (R250, R252, R263): with all lengths good, the lowest-numbered field with a leading zero or a value above 255
is named, with the kind of its own error. -/
def Obligations.FailingFieldIsLocated : Prop :=
  ∀ (len : BitVec 16) (s : State) (q : Request) (fields : List (List Nat)) (k : Nat) (f : List Nat),
    s.inFlight = some q → FourFields (charsOf q.a len.toNat) fields → (∀ g ∈ fields, GoodLength g) →
    fields[k]? = some f → ¬ GoodOctet f → (∀ j g, j < k → fields[j]? = some g → GoodOctet g) →
    AnswersScalar (.ip4parse len) s
      (recordWord 0 (if LeadingZero f then 5 else 6) (fieldStart fields k) f.length k 0)

/-- A good address (R251): with no failing field, octet k is the value of field k and every other field of the record is 0. -/
def Obligations.GoodAddressGivesItsOctets : Prop :=
  ∀ (len : BitVec 16) (s : State) (q : Request) (f0 f1 f2 f3 : List Nat),
    s.inFlight = some q → FourFields (charsOf q.a len.toNat) [f0, f1, f2, f3] →
    (∀ g ∈ [f0, f1, f2, f3], GoodLength g ∧ GoodOctet g) →
    AnswersScalar (.ip4parse len) s (fieldValue f0 + 2 ^ 8 * fieldValue f1 + 2 ^ 16 * fieldValue f2 + 2 ^ 24 * fieldValue f3)

/-- `IP4PARSE`: its encoding (R260), and the accepted language (what the spec derives in R265): it answers on every string, and
without an error exactly on four fields of one to three digits, without a leading zero and of value at most 255, joined by
dots. -/
def Obligations.AcceptsExactlyDottedQuads : Prop :=
  ∀ (len : BitVec 16) (s : State) (q : Request), s.inFlight = some q →
    HasWord (.ip4parse len) 0x48 2 0 0 0 len.toNat ∧
    ∃ r : Bus, Answers (.ip4parse len) s { status := .ok, r := r, payload := [] } ∧
      (r.toNat / 2 ^ 32 % 8 = 0 ↔
        ∃ fields, FourFields (charsOf q.a len.toNat) fields ∧ ∀ f ∈ fields, GoodLength f ∧ GoodOctet f)

/-- The block pads (R232): the bytes of A at positions len and above do not matter. -/
def Obligations.BytesBeyondTheStringAreIgnored : Prop :=
  ∀ (len : BitVec 16) (s : State) (q q' : Request), q.a.toNat % 2 ^ (8 * len.toNat) = q'.a.toNat % 2 ^ (8 * len.toNat) →
    ∃ r : Bus, Answers (.ip4parse len) { s with inFlight := some q } { status := .ok, r := r, payload := [] } ∧
      Answers (.ip4parse len) { s with inFlight := some q' } { status := .ok, r := r, payload := [] }
end

