-- ==== Sys2Proof/Laws/Decode.lean ====
section
/-! SUPPORT. The fields of format C (R61): reading the fields of a word and writing a word of fields are inverse. -/

namespace Sys2Proof

/-- Concatenation as a number: the first word stands above the second (R12). -/
theorem toNat_append_add {v w : Nat} (x : BitVec v) (y : BitVec w) : (x ++ y).toNat = x.toNat * 2 ^ w + y.toNat := by
  rw [BitVec.toNat_append, ← Nat.shiftLeft_add_eq_or_of_lt y.isLt, Nat.shiftLeft_eq]

/-- A word of fields as a number. -/
theorem toNat_wordOf (f : Fields) :
    (wordOf f).toNat = f.opc.toNat + 2 ^ 8 * f.na.toNat + 2 ^ 10 * f.ea.toNat + 2 ^ 12 * f.nb.toNat
      + 2 ^ 14 * f.eb.toNat + 2 ^ 16 * f.imm.toNat := by
  unfold wordOf
  simp only [toNat_append_add]
  ring

/-- The word of a command as a number. -/
theorem toNat_encode (i : Instr) :
    (encode i).toNat = (fieldsOfInstr i).opc.toNat + 2 ^ 8 * (fieldsOfInstr i).na.toNat + 2 ^ 10 * (fieldsOfInstr i).ea.toNat
      + 2 ^ 12 * (fieldsOfInstr i).nb.toNat + 2 ^ 14 * (fieldsOfInstr i).eb.toNat + 2 ^ 16 * (fieldsOfInstr i).imm.toNat :=
  toNat_wordOf _

/-- The fields of a word of fields. -/
theorem fieldsOf_wordOf (f : Fields) : fieldsOf (wordOf f) = f := by
  have h := toNat_wordOf f
  have h0 := f.opc.isLt
  have h1 := f.na.isLt
  have h2 := f.ea.isLt
  have h3 := f.nb.isLt
  have h4 := f.eb.isLt
  have h5 := f.imm.isLt
  cases f
  simp only [fieldsOf, Fields.mk.injEq]
  refine ⟨?_, ?_, ?_, ?_, ?_, ?_⟩ <;> apply BitVec.eq_of_toNat_eq <;>
    simp only [BitVec.extractLsb'_toNat, Nat.shiftRight_eq_div_pow, h] <;> simp only at * <;> omega

/-- The word of the fields of a word. -/
theorem wordOf_fieldsOf (cmd : Cmd) : wordOf (fieldsOf cmd) = cmd := by
  apply BitVec.eq_of_toNat_eq
  rw [toNat_wordOf]
  have := cmd.isLt
  simp only [fieldsOf, BitVec.extractLsb'_toNat, Nat.shiftRight_eq_div_pow]
  omega

/-- How many payload bytes a word of fields carries (R26): IMM for OPC 0x41 with no shape, none for every other word. -/
theorem payloadLength_wordOf (f : Fields) :
    payloadLength (wordOf f)
      = if f.opc = 0x41 ∧ f.na = 0 ∧ f.ea = 0 ∧ f.nb = 0 ∧ f.eb = 0 then f.imm.toNat else 0 := by
  have himm : (wordOf f).extractLsb' 16 16 = f.imm := congrArg Fields.imm (fieldsOf_wordOf f)
  have hlow : (wordOf f).extractLsb' 0 16 = 0x0041#16 ↔ f.opc = 0x41 ∧ f.na = 0 ∧ f.ea = 0 ∧ f.nb = 0 ∧ f.eb = 0 := by
    have h := toNat_wordOf f
    have := f.opc.isLt
    have := f.na.isLt
    have := f.ea.isLt
    have := f.nb.isLt
    have := f.eb.isLt
    simp only [← BitVec.toNat_inj, BitVec.extractLsb'_toNat, Nat.shiftRight_eq_div_pow, h]
    simp
    omega
  unfold payloadLength
  rw [himm]
  simp only [hlow]

/-- Decoding an encoded command is decoding its fields. -/
theorem decodeUnder_encode (maxLen : BitVec 16) (i : Instr) :
    decodeUnder maxLen (encode i) = decodeFields maxLen (fieldsOfInstr i) := by
  rw [decodeUnder, encode, fieldsOf_wordOf]

/-- Two commands with the same fields have the same word, and the other way about. -/
theorem encode_eq_iff (i j : Instr) : encode i = encode j ↔ fieldsOfInstr i = fieldsOfInstr j := by
  constructor
  · intro h
    have := congrArg fieldsOf h
    rwa [encode, encode, fieldsOf_wordOf, fieldsOf_wordOf] at this
  · intro h
    rw [encode, encode, h]

end Sys2Proof
end

