-- ==== Sys2Proof/Laws/Operands.lean ====
section
/-! SUPPORT. Packing and unpacking, said once: the lanes of a packed bus, bit by bit and as numbers. -/

namespace Sys2Proof.Machine

variable {n w : Nat}

theorem unpack_apply (bus : Bus) (i : Fin n) : unpack n w bus i = bus.extractLsb' (w * i) w := rfl

/-- A lane of an unpacked bus is the number `laneOf` reads (R41). -/
theorem toNat_unpack (bus : Bus) (i : Fin n) : (unpack n w bus i).toNat = laneOf w bus i := by
  rw [unpack_apply, BitVec.extractLsb'_toNat, Nat.shiftRight_eq_div_pow, laneOf]

/-- The bits of lanes in a row: bit b is bit b % w of lane b / w (R41). -/
theorem getLsbD_packList (xs : List (BitVec w)) (hw : 0 < w) (b : Nat) :
    (packList xs).getLsbD b = (decide (b < 256) && (xs.getD (b / w) 0).getLsbD (b % w)) := by
  induction xs generalizing b with
  | nil => simp [packList]
  | cons x xs ih =>
    unfold packList
    rw [BitVec.getLsbD_or, BitVec.getLsbD_setWidth, BitVec.getLsbD_shiftLeft]
    by_cases hb : b < w
    · rw [Nat.div_eq_of_lt hb, Nat.mod_eq_of_lt hb]
      simp [hb]
    · have hle : w ≤ b := Nat.le_of_not_lt hb
      have hdiv : b / w = (b - w) / w + 1 := by
        conv_lhs => rw [← Nat.sub_add_cancel hle]
        exact Nat.add_div_right _ hw
      have hmod : b % w = (b - w) % w := by
        conv_lhs => rw [← Nat.sub_add_cancel hle]
        exact Nat.add_mod_right _ _
      rw [ih, hdiv, hmod, List.getD_cons_succ, BitVec.getLsbD_of_ge x b hle]
      by_cases h : b < 256
      · simp [h, hb, show b - w < 256 by omega]
      · simp [h]

/-- The bits of a packed vector (R41, R42). -/
theorem getLsbD_pack (v : Lanes n w) (hw : 0 < w) (b : Nat) :
    (pack v).getLsbD b = (decide (b < 256) && if h : b / w < n then (v ⟨b / w, h⟩).getLsbD (b % w) else false) := by
  rw [pack, getLsbD_packList _ hw]
  congr 1
  by_cases h : b / w < n
  · rw [dif_pos h, List.getD_eq_getElem _ _ (by simpa using h)]
    simp
  · rw [dif_neg h, List.getD_eq_default _ _ (by simpa using h)]
    simp

/-- Unpacking is the inverse of packing (R41). -/
theorem unpack_pack (v : Lanes n w) (hw : 0 < w) (hn : n * w ≤ 256) : unpack n w (pack v) = v := by
  funext i
  apply BitVec.eq_of_getLsbD_eq
  intro j hj
  have hlt : w * i.val + j < 256 := by
    calc w * i.val + j < w * i.val + w := by omega
      _ = (i.val + 1) * w := by ring
      _ ≤ n * w := Nat.mul_le_mul_right _ i.isLt
      _ ≤ 256 := hn
  have hdiv : (w * i.val + j) / w = i.val := by
    rw [Nat.mul_add_div hw, Nat.div_eq_of_lt hj, Nat.add_zero]
  have hmod : (w * i.val + j) % w = j := by
    rw [Nat.mul_add_mod, Nat.mod_eq_of_lt hj]
  rw [unpack_apply, BitVec.getLsbD_extractLsb', getLsbD_pack v hw]
  simp [hj, hlt, hdiv, hmod]

/-- The lanes of a packed vector, as numbers (R41). -/
theorem laneOf_pack (v : Lanes n w) (hw : 0 < w) (hn : n * w ≤ 256) (i : Fin n) : laneOf w (pack v) i = (v i).toNat := by
  rw [← toNat_unpack (n := n) (pack v) i, unpack_pack v hw hn]

/-- Above its lanes a packed vector is zero (R42). -/
theorem pack_lt (v : Lanes n w) (hw : 0 < w) : (pack v).toNat < 2 ^ (n * w) := by
  apply Nat.lt_pow_two_of_testBit
  intro b hb
  rw [BitVec.testBit_toNat, getLsbD_pack v hw, dif_neg (Nat.not_lt.mpr ((Nat.le_div_iff_mul_le hw).mpr hb))]
  simp

/-- A packed vector on R, in the words of claims: its lanes, and nothing above them. -/
theorem vectorResponse_eq (v : Lanes n w) : vectorResponse v = { status := .ok, r := pack v, payload := [] } := rfl

/-- A scalar on R (R140). -/
theorem scalarResponse_eq (x : Nat) :
    scalarResponse x = { status := .ok, r := BitVec.ofNat 256 x, payload := [] } := rfl

/-- A command that answers with the vector v answers with v's lanes. -/
theorem answersLanes_of_pack {i : Instr} {s : State} {q : Request} (v : Lanes n w) (hw : 0 < w) (hn : n * w ≤ 256)
    (hq : s.inFlight = some q) (f : Request → Response) (h : exec i s = answer s f) (hf : f q = vectorResponse v)
    (lane : Nat → Nat) (hl : ∀ k : Fin n, (v k).toNat = lane k) : AnswersLanes i s n w lane := by
  refine ⟨pack v, ?_, fun k hk => ?_, pack_lt v hw⟩
  · unfold Answers
    rw [h]
    unfold answer
    rw [hq]
    simp only [hf]
    rfl
  · rw [← hl ⟨k, hk⟩]
    exact laneOf_pack v hw hn ⟨k, hk⟩

/-- A command that answers with the scalar x answers with x, if R can hold it. -/
theorem answersScalar_of_eq {i : Instr} {s : State} {q : Request} (x : Nat) (hx : x < 2 ^ 256) (hq : s.inFlight = some q)
    (f : Request → Response) (h : exec i s = answer s f) (hf : f q = scalarResponse x) : AnswersScalar i s x := by
  refine ⟨BitVec.ofNat 256 x, ?_, ?_⟩
  · unfold Answers
    rw [h]
    unfold answer
    rw [hq]
    simp only [hf]
    rfl
  · rw [BitVec.toNat_ofNat, Nat.mod_eq_of_lt hx]

/-- The lane counts are 4, 8 and 16, and no shape exceeds the bus (R8, R10). -/
theorem count_pos (n : LaneCount) : 0 < n.count := by cases n <;> decide
theorem width_pos (w : LaneWidth) : 0 < w.bits := by cases w <;> decide
theorem elem_pos (e : ElemType) : 0 < e.bits := by cases e <;> decide
theorem width_fits (n : LaneCount) (w : LaneWidth) : n.count * w.bits ≤ 256 := by cases n <;> cases w <;> decide
theorem elem_fits (n : LaneCount) (e : ElemType) : n.count * e.bits ≤ 256 := by cases n <;> cases e <;> decide
theorem bool_fits (n : LaneCount) : n.count * 1 ≤ 256 := by cases n <;> decide
theorem byte_fits (n : LaneCount) : n.count * 8 ≤ 256 := by cases n <;> decide
theorem wide_fits (n : LaneCount) : n.count * 16 ≤ 256 := by cases n <;> decide

end Sys2Proof.Machine
end

