-- ==== Sys2Proof/Laws/LaneOps.lean ====
section
/-! SUPPORT. What each lane operation computes, as numbers: one lemma per operation. -/

namespace Sys2Proof.Machine

variable {n w : Nat}

theorem toNat_lsr (x : BitVec w) (s : Nat) : (lsr x s).toNat = x.toNat / 2 ^ s := by
  unfold lsr
  split
  · rw [BitVec.toNat_ushiftRight, Nat.shiftRight_eq_div_pow]
  · rename_i h
    rw [Nat.div_eq_of_lt (Nat.lt_of_lt_of_le x.isLt (Nat.pow_le_pow_right (by decide) (Nat.le_of_not_lt h)))]
    rfl

theorem toNat_lsl (x : BitVec w) (s : Nat) : (lsl x s).toNat = x.toNat * 2 ^ s % 2 ^ w := by
  unfold lsl
  split
  · rw [BitVec.toNat_shiftLeft, Nat.shiftLeft_eq]
  · rename_i h
    rw [Nat.mod_eq_zero_of_dvd (Dvd.dvd.mul_left (Nat.pow_dvd_pow 2 (Nat.le_of_not_lt h)) _)]
    rfl

theorem swizzle_apply {t v : Nat} (table : Lanes t w) (idx : Lanes n v) (i : Fin n) :
    swizzle table idx i = if h : (idx i).toNat < t then table ⟨(idx i).toNat, h⟩ else 0 := rfl

theorem rotate_apply (a : Lanes n w) (k : Nat) (i : Fin n) :
    rotate a k i = a ⟨(i.val + k) % n, Nat.mod_lt _ (Nat.lt_of_le_of_lt (Nat.zero_le _) i.isLt)⟩ := rfl

theorem compareEq_eq_one (a : Lanes n w) (s : BitVec 16) (i : Fin n) :
    compareEq a s i = 1 ↔ (a i).toNat = s.toNat := by
  unfold compareEq
  rcases h : ((a i).toNat == s.toNat) with _ | _
  · simpa using h
  · simpa using h

theorem compareGt_eq_one (a : Lanes n w) (s : BitVec 16) (i : Fin n) :
    compareGt a s i = 1 ↔ s.toNat < (a i).toNat := by
  unfold compareGt
  rcases h : decide (s.toNat < (a i).toNat) with _ | _
  · simpa using h
  · simpa using h

theorem getLsbD_foldr_or (xs : List (BitVec w)) (j : Nat) :
    (xs.foldr (· ||| ·) 0).getLsbD j = xs.any (fun x => x.getLsbD j) := by
  induction xs with
  | nil => simp
  | cons x xs ih => rw [List.foldr_cons, BitVec.getLsbD_or, ih, List.any_cons]

/-- Bit j of an OR of lanes is set iff it is set in some lane (R141). -/
theorem getLsbD_reduceOr (a : Lanes n w) (j : Nat) :
    (reduceOr a).getLsbD j = true ↔ ∃ i, (a i).getLsbD j = true := by
  unfold reduceOr
  rw [getLsbD_foldr_or]
  simp [List.any_eq_true, List.mem_ofFn]

theorem reduceAll_eq_true (a : Lanes n 1) : reduceAll a = true ↔ ∀ i, a i = 1 := by
  unfold reduceAll
  simp [List.all_eq_true, List.mem_ofFn]

theorem reduceAny_eq_true (a : Lanes n 1) : reduceAny a = true ↔ ∃ i, a i = 1 := by
  unfold reduceAny
  simp [List.any_eq_true, List.mem_ofFn]

theorem reduceSum_eq (a : Lanes n w) : reduceSum a = ∑ i, (a i).toNat := by
  unfold reduceSum
  rw [List.map_ofFn, List.sum_ofFn]
  rfl

theorem maskOf_eq (a : Lanes n 1) : maskOf a = ∑ i : Fin n, if a i = 1 then 2 ^ i.val else 0 := by
  unfold maskOf
  rw [List.sum_ofFn]
  simp

theorem findFirstSet_le (a : Lanes n 1) : findFirstSet a ≤ n := by
  unfold findFirstSet
  simpa using List.findIdx_le_length (xs := List.ofFn a) (p := (· == 1))

/-- The first true lane is k: lane k is true and every lane before it is false (R146). -/
theorem findFirstSet_eq_iff (a : Lanes n 1) (k : Fin n) :
    findFirstSet a = k ↔ a k = 1 ∧ ∀ j : Fin n, j < k → a j ≠ 1 := by
  unfold findFirstSet
  rw [List.findIdx_eq (by simp)]
  constructor
  · rintro ⟨h1, h2⟩
    refine ⟨by simpa using h1, fun j hj => ?_⟩
    simpa using h2 j hj
  · rintro ⟨h1, h2⟩
    refine ⟨by simpa using h1, fun j hj => ?_⟩
    simpa using h2 ⟨j, Nat.lt_trans hj k.isLt⟩ hj

/-- No lane is true: the sentinel N (R146). -/
theorem findFirstSet_of_none (a : Lanes n 1) (h : ∀ i, a i ≠ 1) : findFirstSet a = n := by
  unfold findFirstSet
  rw [List.findIdx_eq_length_of_false]
  · simp
  · intro x hx
    obtain ⟨i, rfl⟩ := List.mem_ofFn.mp hx
    simpa using h i

theorem toNat_laneAdd (a b : Lanes n w) (i : Fin n) : (laneAdd a b i).toNat = ((a i).toNat + (b i).toNat) % 2 ^ w :=
  BitVec.toNat_add _ _

theorem toNat_laneSub (a b : Lanes n w) (i : Fin n) :
    (laneSub a b i).toNat = ((a i).toNat + (2 ^ w - (b i).toNat)) % 2 ^ w := by
  rw [laneSub, BitVec.toNat_sub, Nat.add_comm]

theorem toNat_laneSubScalar (a : Lanes n w) (s : BitVec w) (i : Fin n) :
    (laneSubScalar a s i).toNat = ((a i).toNat + (2 ^ w - s.toNat)) % 2 ^ w := by
  rw [laneSubScalar, BitVec.toNat_sub, Nat.add_comm]

theorem toNat_laneMulScalar (a : Lanes n w) (s : BitVec w) (i : Fin n) :
    (laneMulScalar a s i).toNat = (a i).toNat * s.toNat % 2 ^ w := BitVec.toNat_mul _ _

theorem toNat_scalarOf (w : Nat) (imm : BitVec 16) : (scalarOf w imm).toNat = imm.toNat % 2 ^ w :=
  BitVec.toNat_setWidth _ _

theorem laneAnd_apply (a b : Lanes n w) (i : Fin n) : laneAnd a b i = a i &&& b i := rfl
theorem laneAndScalar_apply (a : Lanes n w) (s : BitVec w) (i : Fin n) : laneAndScalar a s i = a i &&& s := rfl
theorem laneOr_apply (a b : Lanes n w) (i : Fin n) : laneOr a b i = a i ||| b i := rfl
theorem laneNot_apply (a : Lanes n w) (i : Fin n) : laneNot a i = ~~~(a i) := rfl

theorem toNat_laneNot (a : Lanes n w) (i : Fin n) : (laneNot a i).toNat = 2 ^ w - 1 - (a i).toNat :=
  BitVec.toNat_not

theorem toNat_boolToU8 (a : Lanes n 1) (i : Fin n) : (boolToU8 a i).toNat = if a i = 1 then 1 else 0 := by
  unfold boolToU8
  by_cases h : a i = 1
  · rw [if_pos h, if_pos (by simpa using h)]
    rfl
  · rw [if_neg h, if_neg (by simpa using h)]
    rfl

theorem toNat_laneWiden (a : Lanes n 8) (i : Fin n) : (laneWiden a i).toNat = (a i).toNat := by
  rw [laneWiden, BitVec.toNat_setWidth]
  exact Nat.mod_eq_of_lt (Nat.lt_trans (a i).isLt (by decide))

theorem toNat_laneNarrow (a : Lanes n 16) (i : Fin n) : (laneNarrow a i).toNat = (a i).toNat % 256 := by
  rw [laneNarrow, BitVec.toNat_setWidth]

/-- A lane of a vector by its number. -/
theorem ofList_apply (xs : List (BitVec w)) (i : Fin n) : ofList n xs i = xs.getD i 0 := rfl

end Sys2Proof.Machine
end

