-- ==== Sys2Proof/Laws/State.lean ====
section
/-! SUPPORT. One lemma per field per update of State, so that no proof unfolds a record update. -/

namespace Sys2Proof.Machine

variable (s : State)

@[simp] theorem State.answered_inFlight (resp : Response) : (s.answered resp).inFlight = none := rfl
@[simp] theorem State.answered_response (resp : Response) : (s.answered resp).response = some resp := rfl
@[simp] theorem State.answered_requests (resp : Response) : (s.answered resp).requests = s.requests := rfl
@[simp] theorem State.answered_resetLine (resp : Response) : (s.answered resp).resetLine = s.resetLine := rfl
@[simp] theorem State.answered_delivered (resp : Response) : (s.answered resp).delivered = s.delivered := rfl

@[simp] theorem State.deliver_inFlight (resp : Response) : (s.deliver resp).inFlight = s.inFlight := rfl
@[simp] theorem State.deliver_response (resp : Response) : (s.deliver resp).response = none := rfl
@[simp] theorem State.deliver_requests (resp : Response) : (s.deliver resp).requests = s.requests := rfl
@[simp] theorem State.deliver_resetLine (resp : Response) : (s.deliver resp).resetLine = s.resetLine := rfl
@[simp] theorem State.deliver_delivered (resp : Response) : (s.deliver resp).delivered = s.delivered ++ [resp] := rfl

@[simp] theorem State.sampleReset_inFlight : (s.sampleReset).inFlight = s.inFlight := rfl
@[simp] theorem State.sampleReset_response : (s.sampleReset).response = s.response := rfl
@[simp] theorem State.sampleReset_requests : (s.sampleReset).requests = s.requests := rfl
@[simp] theorem State.sampleReset_resetLine : (s.sampleReset).resetLine = s.resetLine.tail := rfl
@[simp] theorem State.sampleReset_delivered : (s.sampleReset).delivered = s.delivered := rfl

@[simp] theorem State.landReset_inFlight : (s.landReset).inFlight = none := rfl
@[simp] theorem State.landReset_response : (s.landReset).response = none := rfl
@[simp] theorem State.landReset_requests : (s.landReset).requests = s.requests := rfl
@[simp] theorem State.landReset_resetLine : (s.landReset).resetLine = s.resetLine := rfl
@[simp] theorem State.landReset_delivered : (s.landReset).delivered = s.delivered := rfl

@[simp] theorem State.accept_response : s.accept.response = s.response := by
  unfold State.accept; split <;> rfl
@[simp] theorem State.accept_resetLine : s.accept.resetLine = s.resetLine := by
  unfold State.accept; split <;> rfl
@[simp] theorem State.accept_delivered : s.accept.delivered = s.delivered := by
  unfold State.accept; split <;> rfl

theorem State.accept_of_nil (h : s.requests = []) : s.accept = s := by
  unfold State.accept; rw [h]

theorem State.accept_of_cons (q : Request) (rest : List Request) (h : s.requests = q :: rest) :
    s.accept = { s with inFlight := some q, requests := rest } := by
  unfold State.accept; rw [h]

@[simp] theorem State.withFetchWord_inFlight (nbits w : Nat) :
    (s.withFetchWord nbits w).inFlight = some (s.requestOf (BitVec.ofNat 32 (w % 2 ^ nbits))) := rfl
@[simp] theorem State.withFetchWord_response (nbits w : Nat) :
    (s.withFetchWord nbits w).response = none := rfl
@[simp] theorem State.withFetchWord_requests (nbits w : Nat) :
    (s.withFetchWord nbits w).requests = s.requests := rfl
@[simp] theorem State.withFetchWord_resetLine (nbits w : Nat) :
    (s.withFetchWord nbits w).resetLine = false :: s.resetLine := rfl
@[simp] theorem State.withFetchWord_delivered (nbits w : Nat) :
    (s.withFetchWord nbits w).delivered = s.delivered := rfl

@[simp] theorem State.reset_inFlight : State.reset.inFlight = none := rfl
@[simp] theorem State.reset_response : State.reset.response = none := rfl
@[simp] theorem State.reset_requests : State.reset.requests = [] := rfl
@[simp] theorem State.reset_resetLine : State.reset.resetLine = [] := rfl
@[simp] theorem State.reset_delivered : State.reset.delivered = [] := rfl

@[simp] theorem requestWith_cmd (cmd : Cmd) (a b : Bus) : (requestWith cmd a b).cmd = cmd := rfl
@[simp] theorem requestWith_a (cmd : Cmd) (a b : Bus) : (requestWith cmd a b).a = a := rfl
@[simp] theorem requestWith_b (cmd : Cmd) (a b : Bus) : (requestWith cmd a b).b = b := rfl

end Sys2Proof.Machine
end

