-- ==== Sys2Proof/Laws/Ops.lean ====
section
/-! SUPPORT. What the shared operations of the transaction interface can do, each said once. -/

namespace Sys2Proof.Machine

/-- Answering with a request in flight. -/
theorem answer_of_inFlight {s : State} {q : Request} (h : s.inFlight = some q) (f : Request → Response) :
    answer s f = .next (s.answered (f q)) := by
  unfold answer; rw [h]

/-- Answering with none in flight. -/
theorem answer_of_idle {s : State} (h : s.inFlight = none) (f : Request → Response) :
    answer s f = .fault .noRequest := by
  unfold answer; rw [h]

/-- Everything answering can do when it goes on: a request was in flight, and it has been answered. -/
theorem answer_next {s t : State} {f : Request → Response} (h : answer s f = .next t) :
    ∃ q, s.inFlight = some q ∧ t = s.answered (f q) := by
  unfold answer at h
  split at h
  · rename_i q hq
    exact ⟨q, hq, by injection h with h; exact h.symm⟩
  · cases h

/-- Answering never refuses. -/
theorem answer_not_refused {s : State} {f : Request → Response} {r : Refusal} : answer s f ≠ .refused r := by
  unfold answer; split <;> simp

/-- Every command is an answer to the request in flight (R24): `exec` is `answer` with some function of the request. -/
theorem exec_eq_answer (i : Instr) : ∃ f : Request → Response, ∀ s, exec i s = answer s f := by
  cases i <;> exact ⟨_, fun _ => rfl⟩

/-- With a request in flight every command goes on, and its next state is the answered state. -/
theorem exec_of_inFlight (i : Instr) {s : State} {q : Request} (h : s.inFlight = some q) :
    ∃ resp, exec i s = .next (s.answered resp) := by
  obtain ⟨f, hf⟩ := exec_eq_answer i
  exact ⟨f q, by rw [hf, answer_of_inFlight h]⟩

/-- Everything a command can do when it goes on. -/
theorem exec_next (i : Instr) {s t : State} (h : exec i s = .next t) :
    ∃ q resp, s.inFlight = some q ∧ t = s.answered resp := by
  obtain ⟨f, hf⟩ := exec_eq_answer i
  rw [hf] at h
  obtain ⟨q, hq, ht⟩ := answer_next h
  exact ⟨q, f q, hq, ht⟩

/-- Taking the exception with a request in flight (R301). -/
theorem raiseIllegal_of_inFlight {s : State} {q : Request} (h : s.inFlight = some q) :
    raiseIllegal s = .next (s.answered illegalResponse) := answer_of_inFlight h _

/-- The three activities of the block, by what the state holds. -/
theorem activity_of_response {s : State} {resp : Response} (h : s.response = some resp) :
    s.activity = .deliver resp := by
  unfold State.activity; rw [h]

theorem activity_of_inFlight {s : State} {q : Request} (hr : s.response = none) (hq : s.inFlight = some q) :
    s.activity = .execute q := by
  unfold State.activity; rw [hr, hq]

theorem activity_of_idle {s : State} (hr : s.response = none) (hq : s.inFlight = none) : s.activity = .accept := by
  unfold State.activity; rw [hr, hq]

/-- The step when reset is asserted (R343). -/
theorem step_of_reset {s : State} (h : s.resetAsserted = true) : step s = .next s.sampleReset.landReset := by
  unfold step; rw [if_pos h]

/-- The step when a response is pending. -/
theorem step_of_response {s : State} {resp : Response} (h : s.resetAsserted = false) (hr : s.response = some resp) :
    step s = .next (s.sampleReset.deliver resp) := by
  unfold step
  rw [if_neg (by simp [h]), activity_of_response (s := s.sampleReset) hr]

/-- The step when a request is in flight. -/
theorem step_of_inFlight {s : State} {q : Request} (h : s.resetAsserted = false) (hr : s.response = none)
    (hq : s.inFlight = some q) :
    step s = match decode q.cmd with
      | .ok i => exec i s.sampleReset
      | .error _ => raiseIllegal s.sampleReset := by
  unfold step
  rw [if_neg (by simp [h]), activity_of_inFlight (s := s.sampleReset) hr hq]
  all_goals rfl

/-- The step of an idle block. -/
theorem step_of_idle {s : State} (h : s.resetAsserted = false) (hr : s.response = none) (hq : s.inFlight = none) :
    step s = .next s.sampleReset.accept := by
  unfold step
  rw [if_neg (by simp [h]), activity_of_idle (s := s.sampleReset) hr hq]

end Sys2Proof.Machine
end

