-- ==== Sys2Proof/Laws/PerInstr.lean ====
section
/-! SUPPORT. The per-instruction family TableRow: every command's word has the fixed bits of its row of spec/opcode_table.json,
its word under the row's mask being the row's match. -/

namespace Sys2Proof.Laws

/-- The mask and the match of the row of spec/opcode_table.json a command stands for. -/
def tableRow : Instr → Cmd × Cmd
  | .shr .. => (0x0000F8FF, 0x00000001)
  | .shrv .. => (0xFFFFF8FF, 0x00000002)
  | .shl .. => (0x0000F8FF, 0x00000003)
  | .shlv .. => (0xFFFFF8FF, 0x00000004)
  | .shrw .. => (0x0000FCFF, 0x00000005)
  | .shrwv .. => (0xFFFFFCFF, 0x00000006)
  | .shlw .. => (0x0000FCFF, 0x00000007)
  | .shlwv .. => (0xFFFFFCFF, 0x00000008)
  | .swizzle .. => (0xFFFF88FF, 0x00000010)
  | .rotate .. => (0x0000F0FF, 0x00000011)
  | .cmpeq .. => (0x0000F8FF, 0x00000018)
  | .ror .. => (0xFFFFF0FF, 0x00000020)
  | .rall .. => (0xFFFFFCFF, 0x00000821)
  | .rany .. => (0xFFFFFCFF, 0x00000822)
  | .rsum .. => (0xFFFFF0FF, 0x00000023)
  | .mask .. => (0xFFFFFCFF, 0x00000824)
  | .ffs .. => (0xFFFFFCFF, 0x00000825)
  | .add .. => (0xFFFFF8FF, 0x00000030)
  | .sub .. => (0xFFFFF8FF, 0x00000031)
  | .subs .. => (0x0000F8FF, 0x00000032)
  | .muls .. => (0x0000F8FF, 0x00000033)
  | .and .. => (0xFFFFF0FF, 0x00000034)
  | .ands .. => (0x0000F8FF, 0x00000035)
  | .or .. => (0xFFFFF0FF, 0x00000036)
  | .not .. => (0xFFFFF0FF, 0x00000037)
  | .cmpgtu .. => (0x0000F8FF, 0x00000038)
  | .btou .. => (0xFFFFFCFF, 0x00000839)
  | .widen .. => (0xFFFFFCFF, 0x0000003A)
  | .narrow .. => (0xFFFFFCFF, 0x0000043B)
  | .b64chunk => (0xFFFFFFFF, 0x00000040)
  | .b64decode .. => (0x0000FFFF, 0x00000041)
  | .ip4parse .. => (0x0000FFFF, 0x00000248)

/-- The fixed bits of a command's word are its row's. -/
def TableRow.Statement (i : Instr) : Prop := encode i &&& (tableRow i).1 = (tableRow i).2

/-- A word of fields under a mask of fields. -/
theorem wordOf_and (f g : Fields) : wordOf f &&& wordOf g =
    wordOf ⟨f.opc &&& g.opc, f.na &&& g.na, f.ea &&& g.ea, f.nb &&& g.nb, f.eb &&& g.eb, f.imm &&& g.imm⟩ := by
  unfold wordOf
  repeat erw [BitVec.and_append]

/-- A mask that leaves IMM free sees the same bits whatever IMM is. -/
theorem fixed_bits_imm (opc : BitVec 8) (na ea nb eb : BitVec 2) (imm : BitVec 16) (mask val : Cmd)
    (h : wordOf ⟨opc, na, ea, nb, eb, 0⟩ &&& mask = val) (hm : (fieldsOf mask).imm = 0) :
    wordOf ⟨opc, na, ea, nb, eb, imm⟩ &&& mask = val := by
  rw [← wordOf_fieldsOf mask, wordOf_and] at h ⊢
  have zero : ∀ x : BitVec 16, x &&& 0 = 0 := fun _ => BitVec.and_zero
  simp only [hm, zero] at h ⊢
  exact h

end Sys2Proof.Laws

theorem Sys2Proof.Laws.TableRow.shr (n : Sys2Proof.LaneCount) (w : Sys2Proof.LaneWidth) (imm : BitVec 16) :
    Sys2Proof.Laws.TableRow.Statement (.shr n w imm) := by
  cases n <;> cases w <;> exact Sys2Proof.Laws.fixed_bits_imm _ _ _ _ _ imm 0x0000F8FF 0x00000001 (by decide) (by decide)

theorem Sys2Proof.Laws.TableRow.shrv (n : Sys2Proof.LaneCount) (w : Sys2Proof.LaneWidth) :
    Sys2Proof.Laws.TableRow.Statement (.shrv n w) := by
  unfold Sys2Proof.Laws.TableRow.Statement
  cases n <;> cases w <;> decide

theorem Sys2Proof.Laws.TableRow.shl (n : Sys2Proof.LaneCount) (w : Sys2Proof.LaneWidth) (imm : BitVec 16) :
    Sys2Proof.Laws.TableRow.Statement (.shl n w imm) := by
  cases n <;> cases w <;> exact Sys2Proof.Laws.fixed_bits_imm _ _ _ _ _ imm 0x0000F8FF 0x00000003 (by decide) (by decide)

theorem Sys2Proof.Laws.TableRow.shlv (n : Sys2Proof.LaneCount) (w : Sys2Proof.LaneWidth) :
    Sys2Proof.Laws.TableRow.Statement (.shlv n w) := by
  unfold Sys2Proof.Laws.TableRow.Statement
  cases n <;> cases w <;> decide

theorem Sys2Proof.Laws.TableRow.shrw (n : Sys2Proof.LaneCount) (imm : BitVec 16) :
    Sys2Proof.Laws.TableRow.Statement (.shrw n imm) := by
  cases n <;> exact Sys2Proof.Laws.fixed_bits_imm _ _ _ _ _ imm 0x0000FCFF 0x00000005 (by decide) (by decide)

theorem Sys2Proof.Laws.TableRow.shrwv (n : Sys2Proof.LaneCount) :
    Sys2Proof.Laws.TableRow.Statement (.shrwv n) := by
  unfold Sys2Proof.Laws.TableRow.Statement
  cases n <;> decide

theorem Sys2Proof.Laws.TableRow.shlw (n : Sys2Proof.LaneCount) (imm : BitVec 16) :
    Sys2Proof.Laws.TableRow.Statement (.shlw n imm) := by
  cases n <;> exact Sys2Proof.Laws.fixed_bits_imm _ _ _ _ _ imm 0x0000FCFF 0x00000007 (by decide) (by decide)

theorem Sys2Proof.Laws.TableRow.shlwv (n : Sys2Proof.LaneCount) :
    Sys2Proof.Laws.TableRow.Statement (.shlwv n) := by
  unfold Sys2Proof.Laws.TableRow.Statement
  cases n <;> decide

theorem Sys2Proof.Laws.TableRow.swizzle (n : Sys2Proof.LaneCount) (w : Sys2Proof.LaneWidth) (m : Sys2Proof.LaneCount) (x : Sys2Proof.LaneWidth) :
    Sys2Proof.Laws.TableRow.Statement (.swizzle n w m x) := by
  unfold Sys2Proof.Laws.TableRow.Statement
  cases n <;> cases w <;> cases m <;> cases x <;> decide

theorem Sys2Proof.Laws.TableRow.rotate (n : Sys2Proof.LaneCount) (e : Sys2Proof.ElemType) (imm : BitVec 16) :
    Sys2Proof.Laws.TableRow.Statement (.rotate n e imm) := by
  cases n <;> cases e <;> exact Sys2Proof.Laws.fixed_bits_imm _ _ _ _ _ imm 0x0000F0FF 0x00000011 (by decide) (by decide)

theorem Sys2Proof.Laws.TableRow.cmpeq (n : Sys2Proof.LaneCount) (w : Sys2Proof.LaneWidth) (imm : BitVec 16) :
    Sys2Proof.Laws.TableRow.Statement (.cmpeq n w imm) := by
  cases n <;> cases w <;> exact Sys2Proof.Laws.fixed_bits_imm _ _ _ _ _ imm 0x0000F8FF 0x00000018 (by decide) (by decide)

theorem Sys2Proof.Laws.TableRow.ror (n : Sys2Proof.LaneCount) (e : Sys2Proof.ElemType) :
    Sys2Proof.Laws.TableRow.Statement (.ror n e) := by
  unfold Sys2Proof.Laws.TableRow.Statement
  cases n <;> cases e <;> decide

theorem Sys2Proof.Laws.TableRow.rall (n : Sys2Proof.LaneCount) :
    Sys2Proof.Laws.TableRow.Statement (.rall n) := by
  unfold Sys2Proof.Laws.TableRow.Statement
  cases n <;> decide

theorem Sys2Proof.Laws.TableRow.rany (n : Sys2Proof.LaneCount) :
    Sys2Proof.Laws.TableRow.Statement (.rany n) := by
  unfold Sys2Proof.Laws.TableRow.Statement
  cases n <;> decide

theorem Sys2Proof.Laws.TableRow.rsum (n : Sys2Proof.LaneCount) (e : Sys2Proof.ElemType) :
    Sys2Proof.Laws.TableRow.Statement (.rsum n e) := by
  unfold Sys2Proof.Laws.TableRow.Statement
  cases n <;> cases e <;> decide

theorem Sys2Proof.Laws.TableRow.mask (n : Sys2Proof.LaneCount) :
    Sys2Proof.Laws.TableRow.Statement (.mask n) := by
  unfold Sys2Proof.Laws.TableRow.Statement
  cases n <;> decide

theorem Sys2Proof.Laws.TableRow.ffs (n : Sys2Proof.LaneCount) :
    Sys2Proof.Laws.TableRow.Statement (.ffs n) := by
  unfold Sys2Proof.Laws.TableRow.Statement
  cases n <;> decide

theorem Sys2Proof.Laws.TableRow.add (n : Sys2Proof.LaneCount) (w : Sys2Proof.LaneWidth) :
    Sys2Proof.Laws.TableRow.Statement (.add n w) := by
  unfold Sys2Proof.Laws.TableRow.Statement
  cases n <;> cases w <;> decide

theorem Sys2Proof.Laws.TableRow.sub (n : Sys2Proof.LaneCount) (w : Sys2Proof.LaneWidth) :
    Sys2Proof.Laws.TableRow.Statement (.sub n w) := by
  unfold Sys2Proof.Laws.TableRow.Statement
  cases n <;> cases w <;> decide

theorem Sys2Proof.Laws.TableRow.subs (n : Sys2Proof.LaneCount) (w : Sys2Proof.LaneWidth) (imm : BitVec 16) :
    Sys2Proof.Laws.TableRow.Statement (.subs n w imm) := by
  cases n <;> cases w <;> exact Sys2Proof.Laws.fixed_bits_imm _ _ _ _ _ imm 0x0000F8FF 0x00000032 (by decide) (by decide)

theorem Sys2Proof.Laws.TableRow.muls (n : Sys2Proof.LaneCount) (w : Sys2Proof.LaneWidth) (imm : BitVec 16) :
    Sys2Proof.Laws.TableRow.Statement (.muls n w imm) := by
  cases n <;> cases w <;> exact Sys2Proof.Laws.fixed_bits_imm _ _ _ _ _ imm 0x0000F8FF 0x00000033 (by decide) (by decide)

theorem Sys2Proof.Laws.TableRow.and (n : Sys2Proof.LaneCount) (e : Sys2Proof.ElemType) :
    Sys2Proof.Laws.TableRow.Statement (.and n e) := by
  unfold Sys2Proof.Laws.TableRow.Statement
  cases n <;> cases e <;> decide

theorem Sys2Proof.Laws.TableRow.ands (n : Sys2Proof.LaneCount) (w : Sys2Proof.LaneWidth) (imm : BitVec 16) :
    Sys2Proof.Laws.TableRow.Statement (.ands n w imm) := by
  cases n <;> cases w <;> exact Sys2Proof.Laws.fixed_bits_imm _ _ _ _ _ imm 0x0000F8FF 0x00000035 (by decide) (by decide)

theorem Sys2Proof.Laws.TableRow.or (n : Sys2Proof.LaneCount) (e : Sys2Proof.ElemType) :
    Sys2Proof.Laws.TableRow.Statement (.or n e) := by
  unfold Sys2Proof.Laws.TableRow.Statement
  cases n <;> cases e <;> decide

theorem Sys2Proof.Laws.TableRow.not (n : Sys2Proof.LaneCount) (e : Sys2Proof.ElemType) :
    Sys2Proof.Laws.TableRow.Statement (.not n e) := by
  unfold Sys2Proof.Laws.TableRow.Statement
  cases n <;> cases e <;> decide

theorem Sys2Proof.Laws.TableRow.cmpgtu (n : Sys2Proof.LaneCount) (w : Sys2Proof.LaneWidth) (imm : BitVec 16) :
    Sys2Proof.Laws.TableRow.Statement (.cmpgtu n w imm) := by
  cases n <;> cases w <;> exact Sys2Proof.Laws.fixed_bits_imm _ _ _ _ _ imm 0x0000F8FF 0x00000038 (by decide) (by decide)

theorem Sys2Proof.Laws.TableRow.btou (n : Sys2Proof.LaneCount) :
    Sys2Proof.Laws.TableRow.Statement (.btou n) := by
  unfold Sys2Proof.Laws.TableRow.Statement
  cases n <;> decide

theorem Sys2Proof.Laws.TableRow.widen (n : Sys2Proof.LaneCount) :
    Sys2Proof.Laws.TableRow.Statement (.widen n) := by
  unfold Sys2Proof.Laws.TableRow.Statement
  cases n <;> decide

theorem Sys2Proof.Laws.TableRow.narrow (n : Sys2Proof.LaneCount) :
    Sys2Proof.Laws.TableRow.Statement (.narrow n) := by
  unfold Sys2Proof.Laws.TableRow.Statement
  cases n <;> decide

theorem Sys2Proof.Laws.TableRow.b64chunk :
    Sys2Proof.Laws.TableRow.Statement .b64chunk := by
  unfold Sys2Proof.Laws.TableRow.Statement
  decide

theorem Sys2Proof.Laws.TableRow.b64decode (len : BitVec 16) :
    Sys2Proof.Laws.TableRow.Statement (.b64decode len) := by
  exact Sys2Proof.Laws.fixed_bits_imm _ _ _ _ _ len 0x0000FFFF 0x00000041 (by decide) (by decide)

theorem Sys2Proof.Laws.TableRow.ip4parse (len : BitVec 16) :
    Sys2Proof.Laws.TableRow.Statement (.ip4parse len) := by
  exact Sys2Proof.Laws.fixed_bits_imm _ _ _ _ _ len 0x0000FFFF 0x00000248 (by decide) (by decide)
end

