-- ==== Sys2Proof/Laws/Results.lean ====
section
/-! SUPPORT. The result records of the pipelines as numbers, and the scalar helpers of R16. -/

namespace Sys2Proof.Machine

theorem toNat_ofBool (b : Bool) : (BitVec.ofBool b).toNat = b.toNat := by cases b <;> rfl

/-- The result of `B64CHUNK` as a number (R214). -/
theorem toNat_chunkResult (out : Lanes 3 8) (valid : Bool) :
    (chunkResult out valid).toNat
      = (out 0).toNat + 2 ^ 8 * (out 1).toNat + 2 ^ 16 * (out 2).toNat + 2 ^ 32 * valid.toNat := by
  unfold chunkResult
  simp only [toNat_append_add, toNat_ofBool, BitVec.toNat_zero]
  ring

/-- The result of `B64DECODE` as a number (R220). -/
theorem toNat_bufferResult (ok : Bool) (m : Nat) (hm : m < 2 ^ 16) :
    (bufferResult ok m).toNat = ok.toNat + 2 ^ 16 * m := by
  unfold bufferResult
  simp only [toNat_append_add, toNat_ofBool, BitVec.toNat_ofNat, Nat.mod_eq_of_lt hm]
  ring

/-- The result of `IP4PARSE` as a number (R262). -/
theorem toNat_ip4Result (x : Ip4Record) :
    (ip4Result x).toNat = recordWord x.octets.toNat (ip4ErrorCode x.kind).toNat x.pos.toNat x.len.toNat x.field.toNat
      x.char.toNat := by
  unfold ip4Result recordWord
  simp only [toNat_append_add, BitVec.toNat_zero]
  ring

/-- The count of trailing zeros is j: bit j is set and every bit below it is clear (R16). -/
theorem tzcnt_eq_iff {k : Nat} (m : BitVec k) (j : Nat) (hj : j < k) :
    tzcnt m = j ↔ m.getLsbD j = true ∧ ∀ i, i < j → m.getLsbD i = false := by
  unfold tzcnt
  rw [List.findIdx_eq (by simpa using hj)]
  simp

/-- The count of trailing zeros of zero (R16). -/
theorem tzcnt_zero {k : Nat} : tzcnt (0 : BitVec k) = k := by
  unfold tzcnt
  rw [List.findIdx_eq_length_of_false]
  · simp
  · intro i _
    simp

/-- The chunks of a payload that starts with four bytes (R221). -/
theorem chunksOf_cons (a b c d : Byte) (rest : List Byte) :
    chunksOf (a :: b :: c :: d :: rest) = ofList 4 [a, b, c, d] :: chunksOf rest := rfl

end Sys2Proof.Machine
end

