-- ==== Sys2Proof/Laws/Run.lean ====
section
/-! SUPPORT. Runs of several steps, and how the members of an invariant follow the updates of State. -/

namespace Sys2Proof.Machine

/-- The host's machine steps by `step`. -/
theorem core_step (s : State) : Host.Core.step core s = step s := rfl

/-- One more step at the front of a run. -/
theorem run_succ (k : Nat) (s : State) :
    Host.Core.run core (k + 1) s = match step s with
      | .next t => Host.Core.run core k t
      | .fault r => .fault r
      | .refused r => .refused r := by
  refine (Host.Core.run.eq_2 core s k).trans ?_
  rw [core_step]
  all_goals (cases step s <;> rfl)

/-- A run that starts with a step that goes on. -/
theorem run_of_step {k : Nat} {s t : State} (h : step s = .next t) :
    Host.Core.run core (k + 1) s = Host.Core.run core k t := by
  rw [run_succ, h]

/-- A run of k + m steps is a run of k steps and then one of m. -/
theorem run_add {k m : Nat} {s t : State} (h : Host.Core.run core k s = .next t) :
    Host.Core.run core (k + m) s = Host.Core.run core m t := by
  induction k generalizing s with
  | zero =>
    rw [Nat.zero_add]
    injection h with h
    rw [h]
  | succ k ih =>
    rw [run_succ] at h
    rw [Nat.succ_add, run_succ]
    cases hs : step s with
    | next u =>
      rw [hs] at h
      exact ih h
    | fault r => rw [hs] at h; cases h
    | refused r => rw [hs] at h; cases h

end Sys2Proof.Machine
end

