-- ==== Sys2Proof/Machine/Assembler.lean ====
section
/-! DEFINITION. The assembler notation of R76: dst = MNEMONIC.shapeA[.shapeB] srcA[, srcB][, #imm]. The names are the host's
labels for values it carries, not registers. Immediates are written in decimal (log 11). -/

namespace Sys2Proof

/-- The lane count as a shape writes it (R76). -/
def laneCountText : LaneCount → String
  | .n4 => "4"
  | .n8 => "8"
  | .n16 => "16"

/-- The element type and lane count of a shape (R76): `u8xN`, `u16xN` or `bxN`. -/
def shapeText (n : LaneCount) : ElemType → String
  | .u8 => "u8x" ++ laneCountText n
  | .u16 => "u16x" ++ laneCountText n
  | .bool => "bx" ++ laneCountText n

/-- An integer lane type as an element type. -/
def elemOf : LaneWidth → ElemType
  | .u8 => .u8
  | .u16 => .u16

/-- What follows the equals sign of an assembler line: the mnemonic with the shape of a, and the operands. -/
def commandText (mnemonic : String) (n : LaneCount) (e : ElemType) (operands : String) : String :=
  mnemonic ++ "." ++ shapeText n e ++ " " ++ operands

/-- An immediate operand (R76). -/
def immText (imm : BitVec 16) : String := ", #" ++ toString imm.toNat

/-- The assembler text of a command whose operands are named `a` and `b` (R66, R76). -/
def asmText (a b : String) : Instr → String
  | .shr n w imm => commandText "SHR" n (elemOf w) (a ++ immText imm)
  | .shrv n w => commandText "SHRV" n (elemOf w) (a ++ ", " ++ b)
  | .shl n w imm => commandText "SHL" n (elemOf w) (a ++ immText imm)
  | .shlv n w => commandText "SHLV" n (elemOf w) (a ++ ", " ++ b)
  | .shrw n imm => commandText "SHRW" n .u8 (a ++ immText imm)
  | .shrwv n => commandText "SHRWV" n .u8 (a ++ ", " ++ b)
  | .shlw n imm => commandText "SHLW" n .u8 (a ++ immText imm)
  | .shlwv n => commandText "SHLWV" n .u8 (a ++ ", " ++ b)
  | .swizzle n w m x => "SWIZZLE." ++ shapeText n (elemOf w) ++ "." ++ shapeText m (elemOf x) ++ " " ++ a ++ ", " ++ b
  | .rotate n e imm => commandText "ROTATE" n e (a ++ immText imm)
  | .cmpeq n w imm => commandText "CMPEQ" n (elemOf w) (a ++ immText imm)
  | .ror n e => commandText "ROR" n e a
  | .rall n => commandText "RALL" n .bool a
  | .rany n => commandText "RANY" n .bool a
  | .rsum n e => commandText "RSUM" n e a
  | .mask n => commandText "MASK" n .bool a
  | .ffs n => commandText "FFS" n .bool a
  | .add n w => commandText "ADD" n (elemOf w) (a ++ ", " ++ b)
  | .sub n w => commandText "SUB" n (elemOf w) (a ++ ", " ++ b)
  | .subs n w imm => commandText "SUBS" n (elemOf w) (a ++ immText imm)
  | .muls n w imm => commandText "MULS" n (elemOf w) (a ++ immText imm)
  | .and n e => commandText "AND" n e (a ++ ", " ++ b)
  | .ands n w imm => commandText "ANDS" n (elemOf w) (a ++ immText imm)
  | .or n e => commandText "OR" n e (a ++ ", " ++ b)
  | .not n e => commandText "NOT" n e a
  | .cmpgtu n w imm => commandText "CMPGTU" n (elemOf w) (a ++ immText imm)
  | .btou n => commandText "BTOU" n .bool a
  | .widen n => commandText "WIDEN" n .u8 a
  | .narrow n => commandText "NARROW" n .u16 a
  | .b64chunk => commandText "B64CHUNK" .n4 .u8 a
  | .b64decode len => commandText "B64DECODE" .n4 .u8 (a ++ immText len)
  | .ip4parse len => commandText "IP4PARSE" .n16 .u8 (a ++ immText len)

/-- An assembler line (R76). -/
def asmLine (dst a b : String) (i : Instr) : String := dst ++ " = " ++ asmText a b i

end Sys2Proof
end

