-- ==== Sys2Proof/Tests/Slice0.lean ====
section
/-! SUPPORT. The model's own tests: words written out from the encoding tables, the spec's vectors one step at a time, and a
witness for the hypotheses of every obligation that has some. Expected values are the spec's (95_test_vectors.md, R61 to R66,
R76, R78), never the model's answers. -/

namespace Sys2Proof.Tests

open Machine

/-! ## The states the tests use -/

/-- The block with one request in flight, nothing else presented. -/
def busy (cmd : Cmd) (a b : Bus) : State := { State.reset with inFlight := some (requestWith cmd a b) }

/-- The response that one step gives to one request. -/
def answerTo (cmd : Cmd) (a b : Bus) : Option Response := pendingResponse (step (busy cmd a b))

/-- An OK response with a result and no payload. -/
def okWith (r : Bus) : Option Response := some ⟨.ok, r, []⟩

/-- A `B64DECODE` request of eight characters, 0x00080041. -/
def bufferRequest (c0 c1 c2 c3 c4 c5 c6 c7 : Byte) : Request where
  cmd := 0x00080041
  a := 0
  b := 0
  payload := [c0, c1, c2, c3, c4, c5, c6, c7]
  payload_length := rfl

/-! ## Words written out from the encoding (R61 to R66, R78) -/

/-- The word with the fields IMM, EB, NB, EA, NA, OPC written one after the other, as R61 places them. -/
def word (imm : BitVec 16) (eb nb ea na : BitVec 2) (opc : BitVec 8) : Cmd := imm ++ eb ++ nb ++ ea ++ na ++ opc

/-- The word and the command stand for each other. -/
abbrev Encodes (cmd : Cmd) (i : Instr) : Prop := decode cmd = .ok i ∧ encode i = cmd

theorem test_word_shr : Encodes (word 0b0000000000000100 0b00 0b00 0b00 0b00 0b00000001) (.shr .n4 .u8 4) := by
  decide

theorem test_word_shrv : Encodes (word 0b0000000000000000 0b00 0b00 0b01 0b10 0b00000010) (.shrv .n16 .u16) := by
  decide

theorem test_word_shl : Encodes (word 0b1111111111111111 0b00 0b00 0b01 0b01 0b00000011) (.shl .n8 .u16 0xFFFF) := by
  decide

theorem test_word_shlv : Encodes (word 0b0000000000000000 0b00 0b00 0b00 0b10 0b00000100) (.shlv .n16 .u8) := by
  decide

theorem test_word_shrw : Encodes (word 0b0000000000000011 0b00 0b00 0b00 0b01 0b00000101) (.shrw .n8 3) := by
  decide

theorem test_word_shrwv : Encodes (word 0b0000000000000000 0b00 0b00 0b00 0b00 0b00000110) (.shrwv .n4) := by
  decide

theorem test_word_shlw : Encodes (word 0b0000000000001000 0b00 0b00 0b00 0b10 0b00000111) (.shlw .n16 8) := by
  decide

theorem test_word_shlwv : Encodes (word 0b0000000000000000 0b00 0b00 0b00 0b01 0b00001000) (.shlwv .n8) := by
  decide

theorem test_word_swizzle : Encodes (word 0b0000000000000000 0b01 0b10 0b00 0b01 0b00010000) (.swizzle .n8 .u8 .n16 .u16) := by
  decide

theorem test_word_rotate : Encodes (word 0b0000000000000001 0b00 0b00 0b10 0b10 0b00010001) (.rotate .n16 .bool 1) := by
  decide

theorem test_word_cmpeq : Encodes (word 0b0000000000101110 0b00 0b00 0b00 0b10 0b00011000) (.cmpeq .n16 .u8 0x2E) := by
  decide

theorem test_word_ror : Encodes (word 0b0000000000000000 0b00 0b00 0b01 0b00 0b00100000) (.ror .n4 .u16) := by
  decide

theorem test_word_rall : Encodes (word 0b0000000000000000 0b00 0b00 0b10 0b10 0b00100001) (.rall .n16) := by
  decide

theorem test_word_rany : Encodes (word 0b0000000000000000 0b00 0b00 0b10 0b01 0b00100010) (.rany .n8) := by
  decide

theorem test_word_rsum : Encodes (word 0b0000000000000000 0b00 0b00 0b10 0b00 0b00100011) (.rsum .n4 .bool) := by
  decide

theorem test_word_mask : Encodes (word 0b0000000000000000 0b00 0b00 0b10 0b10 0b00100100) (.mask .n16) := by
  decide

theorem test_word_ffs : Encodes (word 0b0000000000000000 0b00 0b00 0b10 0b00 0b00100101) (.ffs .n4) := by
  decide

theorem test_word_add : Encodes (word 0b0000000000000000 0b00 0b00 0b01 0b10 0b00110000) (.add .n16 .u16) := by
  decide

theorem test_word_sub : Encodes (word 0b0000000000000000 0b00 0b00 0b00 0b01 0b00110001) (.sub .n8 .u8) := by
  decide

theorem test_word_subs : Encodes (word 0b0000000000110000 0b00 0b00 0b00 0b10 0b00110010) (.subs .n16 .u8 0x30) := by
  decide

theorem test_word_muls : Encodes (word 0b0000000001100100 0b00 0b00 0b01 0b00 0b00110011) (.muls .n4 .u16 100) := by
  decide

theorem test_word_and : Encodes (word 0b0000000000000000 0b00 0b00 0b10 0b01 0b00110100) (.and .n8 .bool) := by
  decide

theorem test_word_ands : Encodes (word 0b0000000000001111 0b00 0b00 0b00 0b00 0b00110101) (.ands .n4 .u8 15) := by
  decide

theorem test_word_or : Encodes (word 0b0000000000000000 0b00 0b00 0b01 0b10 0b00110110) (.or .n16 .u16) := by
  decide

theorem test_word_not : Encodes (word 0b0000000000000000 0b00 0b00 0b10 0b10 0b00110111) (.not .n16 .bool) := by
  decide

theorem test_word_cmpgtu : Encodes (word 0b0000000000001001 0b00 0b00 0b00 0b10 0b00111000) (.cmpgtu .n16 .u8 9) := by
  decide

theorem test_word_btou : Encodes (word 0b0000000000000000 0b00 0b00 0b10 0b00 0b00111001) (.btou .n4) := by
  decide

theorem test_word_widen : Encodes (word 0b0000000000000000 0b00 0b00 0b00 0b10 0b00111010) (.widen .n16) := by
  decide

theorem test_word_narrow : Encodes (word 0b0000000000000000 0b00 0b00 0b01 0b01 0b00111011) (.narrow .n8) := by
  decide

theorem test_word_b64chunk : Encodes (word 0b0000000000000000 0b00 0b00 0b00 0b00 0b01000000) (.b64chunk) := by
  decide

theorem test_word_ip4parse : Encodes (word 0b0000000000001011 0b00 0b00 0b00 0b10 0b01001000) (.ip4parse 11) := by
  decide

/-- A payload of length 0 is within every B64_MAX_LEN. -/
theorem test_word_b64decode_empty : Encodes (word 0 0 0 0 0 0b01000001) (.b64decode 0) := by decide

/-- `B64DECODE` with L = 4 where B64_MAX_LEN is 65535. -/
theorem test_word_b64decode :
    decodeUnder 65535 (word 0b0000000000000100 0 0 0 0 0b01000001) = .ok (.b64decode 4) ∧ encode (.b64decode 4) = 0x00040041 := by
  decide

/-! ## What is refused -/

/-- The smoke test of the one check of WellFormed (R73): a payload of 64 bytes where the limit is 63. -/
theorem test_wellformed_b64decode : Instr.wellFormedUnder 63 (.b64decode 64) = false := by decide

/-- The decoder rejects the same length by name, and takes a length at the limit. -/
theorem test_illegal_payload_length :
    decodeUnder 63 0x00400041 = .error .payloadTooLong ∧ decodeUnder 63 0x003F0041 = .ok (.b64decode 63) := by decide

/-- V-IL-1, 2, 3, 4, 5, 6, 7, 8. -/
theorem test_illegal_undefinedOpcode :
    ∀ cmd ∈ [0x00000000, 0x000000FF, 0x00000009, 0x00000012, 0x00000026, 0x0000003C, 0x00000042, 0x00000049],
      decode (BitVec.ofNat 32 cmd) = .error .undefinedOpcode := by
  decide

/-- V-IL-9, 10, 11, 12, 13, 14, 15, 16, 17, 18, 19, 25, 31, 32, 33, 34, 35, 36. -/
theorem test_illegal_reservedShape :
    ∀ cmd ∈ [0x00040301, 0x00040C01, 0x00040801, 0x00000021, 0x00000421, 0x00080407, 0x0000003B, 0x0000043A, 0x00000818,
     0x00000830, 0x00000039, 0x00000810, 0x00000140, 0x00000440, 0x00040141, 0x000B0048, 0x000B0148, 0x000B0648],
      decode (BitVec.ofNat 32 cmd) = .error .reservedShape := by
  decide

/-- V-IL-20, 21, 22, 23, 24, 37. -/
theorem test_illegal_operandBShape :
    ∀ cmd ∈ [0x00001001, 0x00004030, 0x00003010, 0x00008010, 0x0000C010, 0x000B1248],
      decode (BitVec.ofNat 32 cmd) = .error .operandBShape := by
  decide

/-- V-IL-26, 27, 28, 29, 30. -/
theorem test_illegal_unusedImmediate :
    ∀ cmd ∈ [0x00010002, 0x00010020, 0x00010030, 0x00010110, 0x00010040],
      decode (BitVec.ofNat 32 cmd) = .error .unusedImmediate := by
  decide

/-- An illegal word is answered ILLEGAL with R = 0 (V-IL-1). -/
theorem test_illegal_response : answerTo 0x00000000 (2 ^ 128 - 1) (2 ^ 128 - 1) = some ⟨.illegal, 0, []⟩ := by decide

/-! ## One vector or two for every command -/

/-- V-SH-7: `SHR.u16x4`. -/
theorem test_shr_1 : answerTo 0x00080401 0x2E0001400160004C 0 = okWith 0x2E000100010000 := by decide

/-- V-SH-5: `SHR.u8x4`. -/
theorem test_shr_2 : answerTo 0x00090001 0x7F01FF80 0 = okWith 0x0 := by decide

/-- V-SH-12: `SHRV.u8x4`. -/
theorem test_shrv_1 : answerTo 0x00000002 0xFFFFFFFF 0x3FF0908 = okWith 0x1F000000 := by decide

/-- V-SH-13: `SHRV.u16x4`. -/
theorem test_shrv_2 : answerTo 0x00000402 0xFFFFFFFFFFFFFFFF 0x100001000080000 = okWith 0xFFFFFF := by decide

/-- V-SH-15: `SHL.u8x4`. -/
theorem test_shl_1 : answerTo 0x00010003 0x558001FF 0 = okWith 0xAA0002FE := by decide

/-- V-SH-17: `SHL.u16x4`. -/
theorem test_shl_2 : answerTo 0x00080403 0x12348000000100FF 0 = okWith 0x340000000100FF00 := by decide

/-- V-SH-18: `SHLV.u8x4`. -/
theorem test_shlv_1 : answerTo 0x00000004 0x2E051613 0x8060402 = okWith 0x40604C := by decide

/-- V-SH-19: `SHLV.u16x4`. -/
theorem test_shlv_2 : answerTo 0x00000404 0x2E000500160013 0x8000600040002 = okWith 0x2E0001400160004C := by decide

/-- V-SH-20: `SHRW.u8x4`. -/
theorem test_shrw_1 : answerTo 0x00040005 0x75465754 0 = okWith 0x7000400050005 := by decide

/-- V-SH-21: `SHRW.u8x4`. -/
theorem test_shrw_2 : answerTo 0x00080005 0xFFFFFFFF 0 = okWith 0x0 := by decide

/-- V-SH-22: `SHRWV.u8x4`. -/
theorem test_shrwv_1 : answerTo 0x00000006 0xFFFFFFFF 0x8070400 = okWith 0x1000F00FF := by decide

/-- V-SH-23: `SHLW.u8x4`. -/
theorem test_shlw_1 : answerTo 0x00080007 0x8001FF 0 = okWith 0x80000100FF00 := by decide

/-- V-SH-24: `SHLW.u8x4`. -/
theorem test_shlw_2 : answerTo 0x00090007 0x8001FF 0 = okWith 0x200FE00 := by decide

/-- V-SH-28: `SHLWV.u8x4`. -/
theorem test_shlwv_1 : answerTo 0x00000008 0xFFFFFFFF 0xFF11100F = okWith 0x8000 := by decide

/-- V-SH-29: `SHLWV.u8x16`. -/
theorem test_shlwv_2 :
    answerTo 0x00000208 0x1010101010101010101010101010101 0xF0E0D0C0B0A09080706050403020100 =
      okWith 0x8000400020001000080004000200010000800040002000100008000400020001 := by
  decide

/-- V-SW-7: `SWIZZLE.u8x4.u8x8`. -/
theorem test_swizzle_1 : answerTo 0x00001010 0x281E140A 0x202010100000303 = okWith 0x1E1E14140A0A2828 := by decide

/-- V-SW-8: `SWIZZLE.u8x4.u16x4`. -/
theorem test_swizzle_2 : answerTo 0x00004010 0x281E140A 0xFFFF000201000003 = okWith 0x1E0028 := by decide

/-- V-RO-6: `ROTATE.u8x4`. -/
theorem test_rotate_1 : answerTo 0xFFFF0011 0x4030201 0 = okWith 0x3020104 := by decide

/-- V-RO-8: `ROTATE.bx16`. -/
theorem test_rotate_2 : answerTo 0x00010A11 0x8001 0 = okWith 0xC000 := by decide

/-- V-CM-5: `CMPEQ.u8x4`. -/
theorem test_cmpeq_1 : answerTo 0x012F0018 0x2F2F2F2F 0 = okWith 0x0 := by decide

/-- V-CM-6: `CMPEQ.u16x4`. -/
theorem test_cmpeq_2 : answerTo 0x012F0418 0xFFFF2F00002F012F 0 = okWith 0x1 := by decide

/-- V-RD-4: `ROR.u16x4`. -/
theorem test_ror_1 : answerTo 0x00000420 0x100000000018000 0 = okWith 0x8101 := by decide

/-- V-RD-6: `ROR.u8x16`. -/
theorem test_ror_2 : answerTo 0x00000220 0x10101010101010101010101010101010 0 = okWith 0x10 := by decide

/-- V-RD-9: `RALL.bx4`. -/
theorem test_rall_1 : answerTo 0x00000821 0x0 0 = okWith 0x0 := by decide

/-- V-RD-11: `RALL.bx16`. -/
theorem test_rall_2 : answerTo 0x00000A21 0x7FFF 0 = okWith 0x0 := by decide

/-- V-RD-12: `RANY.bx4`. -/
theorem test_rany_1 : answerTo 0x00000822 0x0 0 = okWith 0x0 := by decide

/-- V-RD-14: `RANY.bx16`. -/
theorem test_rany_2 : answerTo 0x00000A22 0x8000 0 = okWith 0x1 := by decide

/-- V-RD-17: `RSUM.u8x16`. -/
theorem test_rsum_1 : answerTo 0x00000223 0xFFFFFFFFFFFFFFFFFFFFFFFFFFFFFFFF 0 = okWith 0xFF0 := by decide

/-- V-RD-18: `RSUM.u16x16`. -/
theorem test_rsum_2 :
    answerTo 0x00000623 0xFFFFFFFFFFFFFFFFFFFFFFFFFFFFFFFFFFFFFFFFFFFFFFFFFFFFFFFFFFFFFFFF 0 =
      okWith 0xFFFF0 := by
  decide

/-- V-RD-21: `MASK.bx16`. -/
theorem test_mask_1 : answerTo 0x00000A24 0x288 0 = okWith 0x288 := by decide

/-- V-RD-23: `MASK.bx4`. -/
theorem test_mask_2 : answerTo 0x00000824 0x8 0 = okWith 0x8 := by decide

/-- V-RD-29: `FFS.bx16`. -/
theorem test_ffs_1 : answerTo 0x00000A25 0x0 0 = okWith 0x10 := by decide

/-- V-RD-32: `FFS.bx4`. -/
theorem test_ffs_2 : answerTo 0x00000825 0xA 0 = okWith 0x1 := by decide

/-- V-EL-3: `ADD.u16x4`. -/
theorem test_add_1 : answerTo 0x00000430 0x5A038400FFFFFF 0x2005A00010001 = okWith 0x5C03DE01000000 := by decide

/-- V-EL-2: `ADD.u8x4`. -/
theorem test_add_2 : answerTo 0x00000030 0x10080FF 0xFF008001 = okWith 0x0 := by decide

/-- V-EL-6: `SUB.u8x4`. -/
theorem test_sub_1 : answerTo 0x00000031 0x1050000 0x205FF01 = okWith 0xFF0001FF := by decide

/-- V-EL-7: `SUB.u16x4`. -/
theorem test_sub_2 : answerTo 0x00000431 0x3E801000000 0xFFFF03E800010001 = okWith 0x1000000FFFFFF := by decide

/-- V-EL-9: `SUBS.u8x4`. -/
theorem test_subs_1 : answerTo 0x00300032 0x3A39302F 0 = okWith 0xA0900FF := by decide

/-- V-EL-10: `SUBS.u8x4`. -/
theorem test_subs_2 : answerTo 0x01050032 0x5050505 0 = okWith 0x0 := by decide

/-- V-EL-13: `MULS.u8x4`. -/
theorem test_muls_1 : answerTo 0x00640033 0x20309 0 = okWith 0xC82C84 := by decide

/-- V-EL-14: `MULS.u16x4`. -/
theorem test_muls_2 : answerTo 0xFFFF0433 0x100028000FFFF 0 = okWith 0xFFFFFFFE80000001 := by decide

/-- V-EL-17: `AND.bx4`. -/
theorem test_and_1 : answerTo 0x00000834 0x3 0x5 = okWith 0x1 := by decide

/-- V-EL-18: `AND.u16x4`. -/
theorem test_and_2 : answerTo 0x00000434 0xFFF0F0FFFF 0xFFFFFF000FF01234 = okWith 0xF01234 := by decide

/-- V-EL-19: `ANDS.u8x4`. -/
theorem test_ands_1 : answerTo 0x000F0035 0x75465754 0 = okWith 0x5060704 := by decide

/-- V-EL-20: `ANDS.u8x4`. -/
theorem test_ands_2 : answerTo 0x01F00035 0xFFFFFFFF 0 = okWith 0xF0F0F0F0 := by decide

/-- V-EL-21: `OR.u8x4`. -/
theorem test_or_1 : answerTo 0x00000036 0x40604C 0x2E0101 = okWith 0x6E614D := by decide

/-- V-EL-22: `OR.bx16`. -/
theorem test_or_2 : answerTo 0x00000A36 0x288 0x577 = okWith 0x7FF := by decide

/-- V-EL-24: `NOT.bx4`. -/
theorem test_not_1 : answerTo 0x00000837 0x0 0 = okWith 0xF := by decide

/-- V-EL-26: `NOT.u16x4`. -/
theorem test_not_2 : answerTo 0x00000437 0x123400FFFFFF0000 0 = okWith 0xEDCBFF000000FFFF := by decide

/-- V-EL-28: `CMPGTU.u8x4`. -/
theorem test_cmpgtu_1 : answerTo 0x00090038 0xA0900FF 0 = okWith 0x9 := by decide

/-- V-EL-29: `CMPGTU.u8x4`. -/
theorem test_cmpgtu_2 : answerTo 0x01000038 0xFFFFFFFF 0 = okWith 0x0 := by decide

/-- V-EL-32: `BTOU.bx4`. -/
theorem test_btou_1 : answerTo 0x00000839 0x2 0 = okWith 0x100 := by decide

/-- V-EL-33: `BTOU.bx16`. -/
theorem test_btou_2 : answerTo 0x00000A39 0xFFFF 0 = okWith 0x1010101010101010101010101010101 := by decide

/-- V-EL-34: `WIDEN.u8x4`. -/
theorem test_widen_1 : answerTo 0x0000003A 0xFF051613 0 = okWith 0xFF000500160013 := by decide

/-- V-EL-35: `WIDEN.u8x16`. -/
theorem test_widen_2 :
    answerTo 0x0000023A 0x8F8E8D8C8B8A89888786858483828180 0 =
      okWith 0x8F008E008D008C008B008A0089008800870086008500840083008200810080 := by
  decide

/-- V-EL-37: `NARROW.u16x4`. -/
theorem test_narrow_1 : answerTo 0x0000043B 0x1000100A800C0 0 = okWith 0x101A8C0 := by decide

/-- V-EL-38: `NARROW.u16x4`. -/
theorem test_narrow_2 : answerTo 0x0000043B 0x800001FF0100FFFF 0 = okWith 0xFF00FF := by decide

/-- V-B64-C7: "A/+z". -/
theorem test_b64chunk_1 : answerTo 0x00000040 0x7A2B2F41 0 = okWith 0x100B3FF03 := by decide

/-- V-B64-C15: "_-AA", garbage bytes and not valid. -/
theorem test_b64chunk_2 : answerTo 0x00000040 0x41412D5F 0 = okWith 0x00000007C := by decide

/-- V-B64-D10: "////++++". -/
theorem test_b64decode_1 :
    pendingResponse (exec (.b64decode 8)
        { State.reset with inFlight := some (bufferRequest 0x2F 0x2F 0x2F 0x2F 0x2B 0x2B 0x2B 0x2B) })
      = some ⟨.ok, 0x00060001, [0xFF, 0xFF, 0xFF, 0xFB, 0xEF, 0xBE]⟩ := by
  decide

/-- V-B64-D4: "TWFuTW=u", all or nothing. -/
theorem test_b64decode_2 :
    pendingResponse (exec (.b64decode 8)
        { State.reset with inFlight := some (bufferRequest 0x54 0x57 0x46 0x75 0x54 0x57 0x3D 0x75) })
      = some ⟨.ok, 0, []⟩ := by
  decide

/-- V-IP-14: "1.2.34.", an empty last field. -/
theorem test_ip4parse_1 : answerTo 0x00070248 0x2E34332E322E31 0 = okWith 0x00307400000000 := by decide

/-- V-IP-36: "100.200.30.4". -/
theorem test_ip4parse_2 : answerTo 0x000C0248 0x342E30332E3030322E303031 0 = okWith 0x000000041EC864 := by decide

/-! ## Steps, reset, shorthand and notation -/

/-- The word placed by `withFetchWord` is the one the next step executes, and the first command after reset. -/
theorem test_fetch_word :
    pendingResponse (step (State.reset.withFetchWord 32 0x00080037)) = some ⟨.illegal, 0, []⟩ ∧
    pendingResponse (step (State.reset.withFetchWord 32 0x00000037)) = okWith 0xFFFFFFFF ∧
    pendingResponse (step (State.reset.withFetchWord 32 0x41)) = okWith 1 := by decide

/-- A table word is decoded as it stands. -/
theorem test_decode_table_word :
    decodeTableWord 32 0x00080401 = some (.shr .n4 .u16 8) ∧ decodeTableWord 32 0x00000009 = none := by decide

/-- Reset during a transaction: no response (R343). -/
theorem test_reset_abandons :
    pendingResponse (step { busy 0x00000001 7 0 with resetLine := [true] }) = none ∧
    pendingResponse (step { busy 0x00000001 7 0 with resetLine := [false] }) = okWith 7 := by decide

/-- `ISDIGIT` on "0/9:" (R77, R179). -/
theorem test_isdigit : chainResult (expand (.isdigit .n4)) 0x3A392F30 = some 5 := by decide

/-- The high and the low bytes of 16-bit lanes (R77). -/
theorem test_hibyte_lobyte :
    chainResult (expand (.hibyte .n4)) 0x1122334455667788 = some 0x11335577 ∧
    chainResult (expand (.lobyte .n4)) 0x1122334455667788 = some 0x22446688 := by decide

/-- The notation of R76 on the worked encodings of R78. -/
theorem test_notation :
    asmText "a" "" (.shr .n4 .u8 4) = "SHR.u8x4 a, #4" ∧ asmText "w" "" (.shr .n4 .u16 8) = "SHR.u16x4 w, #8" ∧
    asmText "OFFSET_TABLE" "h" (.swizzle .n8 .u8 .n4 .u8) = "SWIZZLE.u8x8.u8x4 OFFSET_TABLE, h" ∧
    asmText "v" "" (.rall .n16) = "RALL.bx16 v" ∧ asmText "chunk" "" .b64chunk = "B64CHUNK.u8x4 chunk" ∧
    asmText "buf" "" (.ip4parse 11) = "IP4PARSE.u8x16 buf, #11" := by decide

/-- The destination of a line (R76). -/
theorem test_line : asmLine "r" "a" "b" (.add .n16 .u16) = "r = ADD.u16x16 a, b" := by decide

/-! ## Witnesses: the hypotheses of each obligation are met -/

theorem witness_EncodedCommandDecodesToItself :
    (Instr.swizzle .n8 .u8 .n16 .u16).WellFormed ∧ (Instr.b64decode 0).WellFormed := by
  refine ⟨rfl, ?_⟩
  show decide ((0#16).toNat ≤ Config.b64MaxLen.toNat) = true
  simp

theorem witness_DecodedWordIsItsCommandsOnlyEncoding :
    decode 0x00006110 = .ok (.swizzle .n8 .u8 .n16 .u16) ∧ decode 0xFFFF0248 = .ok (.ip4parse 0xFFFF) := by decide

theorem witness_StepRunsTheDecodedCommand :
    (busy 0x00040001 7 0).resetLine.head? ≠ some true ∧ (busy 0x00040001 7 0).response = none ∧
    (busy 0x00040001 7 0).inFlight = some (requestWith 0x00040001 7 0) ∧
    decode (requestWith 0x00040001 7 0).cmd = .ok (.shr .n4 .u8 4) := by decide

theorem witness_IllegalWordIsAnsweredIllegal :
    ({ busy 0 7 0 with resetLine := [false, true] } : State).resetLine.head? ≠ some true ∧
    ({ busy 0 7 0 with resetLine := [false, true] } : State).response = none ∧
    ({ busy 0 7 0 with resetLine := [false, true] } : State).inFlight = some (requestWith 0 7 0) ∧
    (busy 0 7 0).resetLine.head? ≠ some true ∧ ¬ LegalWord (requestWith 0 7 0).cmd ∧ ¬ LegalWord 0x00010020 := by
  unfold LegalWord
  decide

/-- The block idle with one request presented. -/
def presented (cmd : Cmd) (a b : Bus) : State := { State.reset with requests := [requestWith cmd a b] }

/-- The block with a response pending. -/
def pendingState : State := { State.reset with response := some ⟨.illegal, 0, []⟩, resetLine := [false] }

theorem witness_BlockAcceptsAndDeliversInOrder_accepts :
    (presented 0 7 0).resetLine.head? ≠ some true ∧ (presented 0 7 0).response = none ∧ (presented 0 7 0).inFlight = none ∧
    (presented 0 7 0).requests = requestWith 0 7 0 :: [] := by decide

theorem witness_BlockAcceptsAndDeliversInOrder_idle :
    State.reset.resetLine.head? ≠ some true ∧ State.reset.response = none ∧ State.reset.inFlight = none ∧
    State.reset.requests = [] := by decide

theorem witness_BlockAcceptsAndDeliversInOrder_delivers :
    pendingState.resetLine.head? ≠ some true ∧ pendingState.response = some ⟨.illegal, 0, []⟩ := by decide

theorem witness_StepKeepsTheInvariant :
    Inv (busy 0 7 0) ∧ step (busy 0 7 0) = .next { State.reset with response := some ⟨.illegal, 0, []⟩ } := by
  refine ⟨⟨Or.inr rfl, ?_, ?_⟩, rfl⟩
  · intro resp h
    cases h
  · intro resp h
    cases h

theorem witness_ResetLeavesTheBlockIdle : ({ busy 0 7 0 with resetLine := [true] } : State).resetLine.head? = some true := rfl

theorem witness_AbandonedRequestIsAnsweredWhenRepeated :
    ∃ s : State, s.inFlight = some (requestWith 0x00040001 7 0) ∧ s.requests = [requestWith 0x00040001 7 0] ∧
      s.resetLine = [true] :=
  ⟨{ presented 0x00040001 7 0 with inFlight := some (requestWith 0x00040001 7 0), resetLine := [true] }, rfl, rfl, rfl⟩

theorem witness_RequestsAreAnsweredPointwiseInOrder :
    (presented 0x00040001 7 0).inFlight = none ∧ (presented 0x00040001 7 0).response = none ∧
    (presented 0x00040001 7 0).resetLine = [] := by decide

theorem witness_ResponseDependsOnItsRequestOnly :
    ∃ s t : State, s ≠ t ∧ s.inFlight = some (requestWith 0x00040001 7 0) ∧
      t.inFlight = some (requestWith 0x00040001 7 0) ∧
      s.response = none ∧ t.response = none ∧ s.resetLine.head? ≠ some true ∧ t.resetLine.head? ≠ some true :=
  ⟨busy 0x00040001 7 0, { busy 0x00040001 7 0 with delivered := [⟨.illegal, 0, []⟩], resetLine := [false] }, by decide⟩

/-- Bit 32 of A is above the 4 lanes of 8 bits of this command, bit 31 is not. -/
theorem witness_BitsOutsideTheOperandsAreIgnored :
    (requestWith 0x00040001 7 0).a.toNat % 2 ^ bitsOfA (.shr .n4 .u8 4)
      = (requestWith 0x00040001 (7 + 2 ^ 32) 9).a.toNat % 2 ^ bitsOfA (.shr .n4 .u8 4) ∧
    (requestWith 0x00040001 7 0).b.toNat % 2 ^ bitsOfB (.shr .n4 .u8 4)
      = (requestWith 0x00040001 (7 + 2 ^ 32) 9).b.toNat % 2 ^ bitsOfB (.shr .n4 .u8 4) ∧
    (requestWith 0x00040001 7 0).payload = (requestWith 0x00040001 (7 + 2 ^ 32) 9).payload := by decide

/-- Amounts 7 and 8, the last below W and W itself, on 8-bit lanes. -/
theorem witness_ShiftsByAScalar :
    (busy 0x00070001 0xFF 0).inFlight = some (requestWith 0x00070001 0xFF 0) ∧ (7#16).toNat < LaneWidth.u8.bits ∧
    (busy 0x00080003 0xFF 0).inFlight = some (requestWith 0x00080003 0xFF 0) ∧ ¬ (8#16).toNat < LaneWidth.u8.bits := by decide

/-- Lanes 7 and 8 of b, below W and W itself. -/
theorem witness_ShiftsByLanes :
    (busy 0x00000002 0xFFFF 0x0807).inFlight = some (requestWith 0x00000002 0xFFFF 0x0807) ∧
    laneOf 8 0x0807 0 < LaneWidth.u8.bits ∧ ¬ laneOf 8 0x0807 1 < LaneWidth.u8.bits := by decide

theorem witness_WideningShiftsByAScalar :
    (busy 0x000F0005 0xFF 0).inFlight = some (requestWith 0x000F0005 0xFF 0) ∧ (15#16).toNat < 16 ∧
    (busy 0x00100007 0xFF 0).inFlight = some (requestWith 0x00100007 0xFF 0) ∧ ¬ (16#16).toNat < 16 := by decide

theorem witness_WideningShiftsByLanes :
    (busy 0x00000008 0xFFFF 0x100F).inFlight = some (requestWith 0x00000008 0xFFFF 0x100F) ∧
    laneOf 8 0x100F 0 < 16 ∧ ¬ laneOf 8 0x100F 1 < 16 := by decide

/-- The largest sum of two amounts that a shift amount can hold. -/
theorem witness_ShrAddsItsAmountsAndScalarWideningShiftsSplit :
    (8#16).toNat + (65527#16).toNat ≤ 65535 ∧ (0#16).toNat + (65535#16).toNat ≤ 65535 := by
  decide

/-- Indices 3 and 4 of a table of 4: the last in bounds and the first out of bounds. -/
theorem witness_SwizzleLooksUpItsTable :
    (busy 0x00000010 0x281E140A 0x0403).inFlight = some (requestWith 0x00000010 0x281E140A 0x0403) ∧
    laneOf LaneWidth.u8.bits 0x0403 0 < LaneCount.n4.count ∧ ¬ laneOf LaneWidth.u8.bits 0x0403 1 < LaneCount.n4.count := by
  decide

theorem witness_RotateMovesLanePositions :
    (busy 0xFFFF0011 0x4030201 0).inFlight = some (requestWith 0xFFFF0011 0x4030201 0) := rfl

theorem witness_RotationsComposeAndRorRallRanyRsumIgnoreThem :
    (2#16).toNat = ((3#16).toNat + (65535#16).toNat) % LaneCount.n4.count := by decide

/-- The indices 1, 2, 3, 0 are those of a rotation by 1. -/
theorem witness_RotateIsASwizzleByRotatedIndices :
    ∀ k, k < LaneCount.n4.count → laneOf LaneWidth.u8.bits 0x00030201 k = (k + (1#16).toNat) % LaneCount.n4.count := by decide

/-- A lane equal to the scalar and a lane above it. -/
theorem witness_ComparisonsWithAScalar :
    (busy 0x002F0018 0x302F 0).inFlight = some (requestWith 0x002F0018 0x302F 0) ∧
    laneOf LaneWidth.u8.bits 0x302F 0 = (0x2F#16).toNat ∧
    (0x2F#16).toNat < laneOf LaneWidth.u8.bits 0x302F 1 := by decide

theorem witness_RorHasTheBitsOfItsLanes : (busy 0x20 0x10 0).inFlight = some (requestWith 0x20 0x10 0) := rfl

/-- All lanes true, and none. -/
theorem witness_RallAndRanyReduceBooleans :
    (busy 0x821 0xF 0).inFlight = some (requestWith 0x821 0xF 0) ∧ (∀ k, k < LaneCount.n4.count → laneOf 1 0xF k = 1) ∧
    (busy 0x822 0x10 0).inFlight = some (requestWith 0x822 0x10 0) ∧ (∀ k, k < LaneCount.n4.count → laneOf 1 0x10 k = 0) := by
  decide

theorem witness_RsumIsTheExactSum : (busy 0x623 (2 ^ 256 - 1) 0).inFlight = some (requestWith 0x623 (2 ^ 256 - 1) 0) := rfl

theorem witness_MaskPacksBooleans : (busy 0xA24 0x8001 0).inFlight = some (requestWith 0xA24 0x8001 0) := rfl

/-- Only the last lane true. -/
theorem witness_FfsIsTheFirstTrueLane_some :
    (busy 0x825 8 0).inFlight = some (requestWith 0x825 8 0) ∧ 3 < LaneCount.n4.count ∧
    laneOf 1 (requestWith 0x825 8 0).a 3 = 1 ∧ (∀ j, j < 3 → laneOf 1 (requestWith 0x825 8 0).a j = 0) := by decide

/-- No lane true; bit 4 of A is above the lanes. -/
theorem witness_FfsIsTheFirstTrueLane_none :
    (busy 0x825 0x10 0).inFlight = some (requestWith 0x825 0x10 0) ∧
    (∀ k, k < LaneCount.n4.count → laneOf 1 (requestWith 0x825 0x10 0).a k = 0) := by decide

/-- A zero mask and a mask that is not. -/
theorem witness_FfsCountsTheTrailingZerosOfMask :
    resultOf (.mask .n4) 0 0 = some 0 ∧ resultOf (.mask .n4) 8 0 = some 8 ∧ (8 : Bus).toNat ≠ 0 := by decide

theorem witness_AddAndSubWrap : (busy 0x30 0xFF 1).inFlight = some (requestWith 0x30 0xFF 1) := rfl

theorem witness_ScalarArithmeticReducesTheScalar : (busy 0x01000032 5 0).inFlight = some (requestWith 0x01000032 5 0) := rfl

theorem witness_AndAndOrAreBitwise : (busy 0x834 0xC 0xA).inFlight = some (requestWith 0x834 0xC 0xA) := rfl

theorem witness_NotComplementsItsLanes : (busy 0x837 0xC 0).inFlight = some (requestWith 0x837 0xC 0) := rfl

theorem witness_ConversionsBetweenLaneTypes : (busy 0x839 0xC 0).inFlight = some (requestWith 0x839 0xC 0) := rfl

theorem witness_ChunkAnswersItsBytesAndValidity :
    (busy 0x40 0x75465754 0).inFlight = some (requestWith 0x40 0x75465754 0) := rfl

theorem witness_ChunkIsValidExactlyForTheAlphabet :
    (busy 0x40 0x3D465754 0).inFlight = some (requestWith 0x40 0x3D465754 0) := rfl

/-- The characters "TWFu" with their values 0x13, 0x16, 0x05, 0x2E. -/
theorem witness_ValidChunkGivesTheBytesOfItsNumber :
    (busy 0x40 0x75465754 0).inFlight = some (requestWith 0x40 0x75465754 0) ∧
    ∀ k, k < 4 → alphabetValue (laneOf 8 (requestWith 0x40 0x75465754 0).a k)
      = some ((fun k => [0x13, 0x16, 0x05, 0x2E].getD k 0) k) := by decide

/-- The block with a `B64DECODE` request in flight. -/
def busyWith (q : Request) : State := { State.reset with inFlight := some q }

theorem witness_BufferDecodeMatchesTheReference :
    (busyWith (bufferRequest 0x2F 0x2F 0x2F 0x2F 0x2B 0x2B 0x2B 0x2B)).inFlight
      = some (bufferRequest 0x2F 0x2F 0x2F 0x2F 0x2B 0x2B 0x2B 0x2B) := rfl

/-- A payload of eight bytes, where the limit is 65535, and of none, where it is 0. -/
theorem witness_PayloadHasTheLengthOfItsWord_message :
    decodeUnder 65535 (bufferRequest 0x2F 0x2F 0x2F 0x2F 0x2B 0x2B 0x2B 0x2B).cmd = .ok (.b64decode 8) ∧
    decodeUnder 0 (requestWith 0x00000041 0 0).cmd = .ok (.b64decode 0) := by decide

theorem witness_PayloadHasTheLengthOfItsWord_other :
    decodeUnder 0 (requestWith 0x00000040 7 0).cmd = .ok .b64chunk ∧ ∀ len, Instr.b64chunk ≠ .b64decode len :=
  ⟨by decide, fun _ h => by cases h⟩

/-- The longest payload. -/
theorem witness_PayloadHasTheLengthOfItsWord_bytes : (List.replicate 65535 (0 : Byte)).length ≤ 65535 :=
  (List.length_replicate ..).le

/-- The empty payload is within every limit. -/
theorem witness_EveryPayloadWithinTheLimitIsDecoded :
    ([] : List Byte).length ≤ Config.b64MaxLen.toNat ∧ (busy 0x00000041 0 0).resetLine.head? ≠ some true ∧
    (busy 0x00000041 0 0).response = none ∧ (busy 0x00000041 0 0).inFlight = some (requestWith 0x00000041 0 0) ∧
    (requestWith 0x00000041 0 0).payload = [] :=
  ⟨Nat.zero_le _, by decide, rfl, rfl, rfl⟩

/-- A payload of five bytes. -/
theorem witness_FailedBufferDecodeAnswersNothing_length :
    (busy 0x00050041 0 0).inFlight = some (requestWith 0x00050041 0 0) ∧
    (requestWith 0x00050041 0 0).payload.length % 4 ≠ 0 := by decide

/-- A payload with '=' in it. -/
theorem witness_FailedBufferDecodeAnswersNothing_character :
    ∃ c ∈ (bufferRequest 0x54 0x57 0x46 0x75 0x54 0x57 0x3D 0x75).payload, alphabetValue c.toNat = none := by decide

/-- The empty payload. -/
theorem witness_FailedBufferDecodeAnswersNothing_empty :
    (busy 0x00000041 0 0).inFlight = some (requestWith 0x00000041 0 0) ∧ (requestWith 0x00000041 0 0).payload = [] := by decide

theorem witness_BufferDecodeConcatenatesItsChunks :
    (bufferRequest 0x2F 0x2F 0x2F 0x2F 0x2B 0x2B 0x2B 0x2B).payload.length % 4 = 0 ∧
    (∀ c ∈ (bufferRequest 0x2F 0x2F 0x2F 0x2F 0x2B 0x2B 0x2B 0x2B).payload, alphabetValue c.toNat ≠ none) ∧
    4 * 1 + 3 < (bufferRequest 0x2F 0x2F 0x2F 0x2F 0x2B 0x2B 0x2B 0x2B).payload.length := by decide

/-- The state that a dotted quad on bus A is parsed in. -/
def parsing (len : BitVec 16) (a : Bus) : State := busy (encode (.ip4parse len)) a 0

/-- The request of that state. -/
def parseRequest (len : BitVec 16) (a : Bus) : Request := requestWith (encode (.ip4parse len)) a 0

/-- Lengths 6 and 16, the ends of what the gate rejects. -/
theorem witness_LengthGateRejects :
    (parsing 6 0).inFlight = some (parseRequest 6 0) ∧ (6#16).toNat < 7 ∧
    (parsing 16 0).inFlight = some (parseRequest 16 0) ∧ 15 < (16#16).toNat := by decide

/-- A space at the last position of 7 characters, and a zero byte at position 0 of 15. -/
theorem witness_UnexpectedCharacterIsLocated :
    ((parsing 7 0x202E332E322E31).inFlight = some (parseRequest 7 0x202E332E322E31) ∧ 6 < (7#16).toNat ∧
      ¬ IsDigitOrDot (laneOf 8 0x202E332E322E31 6) ∧ ∀ j, j < 6 → IsDigitOrDot (laneOf 8 0x202E332E322E31 j)) ∧
    ((parsing 15 0).inFlight = some (parseRequest 15 0) ∧ 15 ≤ 15 ∧ ¬ IsDigitOrDot (laneOf 8 0 0) ∧
      ∀ j, j < 0 → IsDigitOrDot (laneOf 8 0 j)) := by
  decide

/-- Two dots in 7 characters, four in 9. -/
theorem witness_WrongDotCountRejects :
    ((parsing 7 0x3534332E322E31).inFlight = some (parseRequest 7 0x3534332E322E31) ∧
      (∀ j, j < 7 → IsDigitOrDot (laneOf 8 0x3534332E322E31 j)) ∧ (charsOf 0x3534332E322E31 7).count 0x2E ≠ 3) ∧
    ((parsing 9 0x352E342E332E322E31).inFlight = some (parseRequest 9 0x352E342E332E322E31) ∧
      (∀ j, j < 9 → IsDigitOrDot (laneOf 8 0x352E342E332E322E31 j)) ∧ (charsOf 0x352E342E332E322E31 9).count 0x2E ≠ 3) := by
  decide

/-- An empty field between two dots, "1..2.34". -/
theorem witness_BadFieldLengthIsLocated_empty :
    (parsing 7 0x34332E322E2E31).inFlight = some (parseRequest 7 0x34332E322E2E31) ∧
    FourFields (charsOf 0x34332E322E2E31 7) [[0x31], [], [0x32], [0x33, 0x34]] ∧
    [[0x31], [], [0x32], [0x33, 0x34]][1]? = some ([] : List Nat) ∧ ¬ GoodLength [] ∧
    ∀ j g, j < 1 → [[0x31], [], [0x32], [0x33, 0x34]][j]? = some g → GoodLength g := by
  refine ⟨rfl, by unfold FourFields; decide, rfl, by decide, ?_⟩
  intro j g hj h
  obtain rfl : j = 0 := by omega
  cases h
  decide

/-- A last field of four digits, "1.2.3.4567". -/
theorem witness_BadFieldLengthIsLocated_long :
    (parsing 10 0x373635342E332E322E31).inFlight = some (parseRequest 10 0x373635342E332E322E31) ∧
    FourFields (charsOf 0x373635342E332E322E31 10) [[0x31], [0x32], [0x33], [0x34, 0x35, 0x36, 0x37]] ∧
    [[0x31], [0x32], [0x33], [0x34, 0x35, 0x36, 0x37]][3]? = some [0x34, 0x35, 0x36, 0x37] ∧
    ¬ GoodLength [0x34, 0x35, 0x36, 0x37] ∧
    ∀ j g, j < 3 → [[0x31], [0x32], [0x33], [0x34, 0x35, 0x36, 0x37]][j]? = some g → GoodLength g := by
  refine ⟨rfl, by unfold FourFields; decide, rfl, by decide, ?_⟩
  intro j g hj h
  interval_cases j <;> cases h <;> decide

/-- A leading zero in field 2, "192.168.01.1" (E6). -/
theorem witness_FailingFieldIsLocated_zero :
    (parsing 12 0x312E31302E3836312E323931).inFlight = some (parseRequest 12 0x312E31302E3836312E323931) ∧
    FourFields (charsOf 0x312E31302E3836312E323931 12) [[0x31, 0x39, 0x32], [0x31, 0x36, 0x38], [0x30, 0x31], [0x31]] ∧
    (∀ g ∈ [[0x31, 0x39, 0x32], [0x31, 0x36, 0x38], [0x30, 0x31], [0x31]], GoodLength g) ∧
    [[0x31, 0x39, 0x32], [0x31, 0x36, 0x38], [0x30, 0x31], [0x31]][2]? = some [0x30, 0x31] ∧
    ¬ GoodOctet [0x30, 0x31] ∧ LeadingZero [0x30, 0x31] ∧
    ∀ j g, j < 2 → [[0x31, 0x39, 0x32], [0x31, 0x36, 0x38], [0x30, 0x31], [0x31]][j]? = some g → GoodOctet g := by
  refine ⟨rfl, by unfold FourFields; decide, by decide, rfl, by decide, by decide, ?_⟩
  intro j g hj h
  interval_cases j <;> cases h <;> decide

/-- A value of 256 in field 0, "256.1.1.1" (E5). -/
theorem witness_FailingFieldIsLocated_value :
    (parsing 9 0x312E312E312E363532).inFlight = some (parseRequest 9 0x312E312E312E363532) ∧
    FourFields (charsOf 0x312E312E312E363532 9) [[0x32, 0x35, 0x36], [0x31], [0x31], [0x31]] ∧
    (∀ g ∈ [[0x32, 0x35, 0x36], [0x31], [0x31], [0x31]], GoodLength g) ∧
    [[0x32, 0x35, 0x36], [0x31], [0x31], [0x31]][0]? = some [0x32, 0x35, 0x36] ∧
    ¬ GoodOctet [0x32, 0x35, 0x36] ∧ ¬ LeadingZero [0x32, 0x35, 0x36] ∧
    ∀ j g, j < 0 → [[0x32, 0x35, 0x36], [0x31], [0x31], [0x31]][j]? = some g → GoodOctet g := by
  refine ⟨rfl, by unfold FourFields; decide, by decide, rfl, by decide, by decide, ?_⟩
  intro j g hj h
  omega

/-- The longest address, "255.255.255.255", and the shortest, "0.0.0.0". -/
theorem witness_GoodAddressGivesItsOctets :
    ((parsing 15 0x3535322E3535322E3535322E353532).inFlight = some (parseRequest 15 0x3535322E3535322E3535322E353532) ∧
      FourFields (charsOf 0x3535322E3535322E3535322E353532 15)
        [[0x32, 0x35, 0x35], [0x32, 0x35, 0x35], [0x32, 0x35, 0x35], [0x32, 0x35, 0x35]] ∧
      ∀ g ∈ [[0x32, 0x35, 0x35], [0x32, 0x35, 0x35], [0x32, 0x35, 0x35], [0x32, 0x35, 0x35]], GoodLength g ∧ GoodOctet g) ∧
    ((parsing 7 0x302E302E302E30).inFlight = some (parseRequest 7 0x302E302E302E30) ∧
      FourFields (charsOf 0x302E302E302E30 7) [[0x30], [0x30], [0x30], [0x30]] ∧
      ∀ g ∈ [[0x30], [0x30], [0x30], [0x30]], GoodLength g ∧ GoodOctet g) := by
  unfold FourFields
  decide

theorem witness_AcceptsExactlyDottedQuads :
    (parsing 15 0x3535322E3535322E3535322E353532).inFlight = some (parseRequest 15 0x3535322E3535322E3535322E353532) := rfl

/-- The byte at position 7 is beyond a string of 7 characters. -/
theorem witness_BytesBeyondTheStringAreIgnored :
    (parseRequest 7 0x302E302E302E30).a.toNat % 2 ^ (8 * (7#16).toNat)
      = (parseRequest 7 0x31302E302E302E30).a.toNat % 2 ^ (8 * (7#16).toNat) := by decide

end Sys2Proof.Tests
end

section
/-! What one step of the block can be (R24), said once, and the invariant it keeps. -/

namespace Sys2Proof.Machine

/-! ## The shape of a response -/

/-- A response without a payload whose STATUS is OK is well shaped whatever R is (R22, R23). -/
theorem wellShaped_okResponse (r : Bus) : WellShaped (okResponse r) :=
  ⟨fun h => (nomatch h), fun h => absurd rfl h⟩

theorem wellShaped_illegalResponse : WellShaped illegalResponse :=
  ⟨fun _ => ⟨rfl, rfl⟩, fun h => absurd rfl h⟩

/-! ## The buffer decoder's output length (R221) -/

/-- A request's payload is at most what the 16 bits of IMM can count (R65, R346). -/
theorem payload_length_lt (q : Request) : q.payload.length < 2 ^ 16 := by
  rw [q.payload_length, payloadLength]
  split
  · exact BitVec.isLt _
  · decide

/-- Each chunk takes four bytes of the payload (R221 step 3). -/
theorem length_chunksOf_le (bytes : List Byte) : 4 * (chunksOf bytes).length ≤ bytes.length := by
  induction bytes using chunksOf.induct with
  | case1 a b c d rest ih => simp only [chunksOf_cons, List.length_cons]; omega
  | case2 bytes _ => simp [chunksOf]

/-- Each chunk gives three bytes (R221 step 4). -/
theorem length_flatMap_b64Out (chunks : List (Lanes 4 8)) :
    (chunks.flatMap fun c => List.ofFn (b64Out c)).length = 3 * chunks.length := by
  induction chunks with
  | nil => rfl
  | cons c cs ih => rw [List.flatMap_cons, List.length_append, ih, List.length_ofFn, List.length_cons]; omega

/-- What the buffer decoder can answer (R221): a failure without bytes, or a success with no more bytes than
characters. -/
theorem b64DecodeBuffer_cases (bytes : List Byte) :
    b64DecodeBuffer bytes = ([], false) ∨
      ∃ decoded, b64DecodeBuffer bytes = (decoded, true) ∧ decoded.length ≤ bytes.length := by
  unfold b64DecodeBuffer
  split
  · exact .inr ⟨[], rfl, Nat.zero_le _⟩
  · split
    · exact .inl rfl
    · split
      · refine .inr ⟨_, rfl, ?_⟩
        have := length_chunksOf_le bytes
        rw [length_flatMap_b64Out]
        omega
      · exact .inl rfl

/-- The response to a failed decode (R305). -/
theorem b64BufferResponse_of_failure {bytes : List Byte} (h : b64DecodeBuffer bytes = ([], false)) :
    b64BufferResponse bytes = okResponse 0 := by
  rw [b64BufferResponse, h]
  rfl

/-- The response of `B64DECODE` is well shaped: R says how many bytes there are, which its 16 bits can hold (R220). -/
theorem wellShaped_b64BufferResponse {bytes : List Byte} (hlen : bytes.length < 2 ^ 16) :
    WellShaped (b64BufferResponse bytes) := by
  obtain hfail | ⟨decoded, hok, hle⟩ := b64DecodeBuffer_cases bytes
  · rw [b64BufferResponse_of_failure hfail]
    exact wellShaped_okResponse 0
  · rw [b64BufferResponse, hok]
    exact ⟨fun h => (nomatch h), fun _ => ⟨rfl, toNat_bufferResult true _ (Nat.lt_of_le_of_lt hle hlen)⟩⟩

/-! ## What a command answers -/

/-- Every command answers its request with a well-shaped response: only `B64DECODE` has a payload (R26). -/
theorem exec_eq_answer_wellShaped (i : Instr) :
    ∃ f : Request → Response, (∀ s, exec i s = answer s f) ∧ ∀ q, WellShaped (f q) := by
  cases i with
  | b64decode len => exact ⟨_, fun _ => rfl, fun q => wellShaped_b64BufferResponse (payload_length_lt q)⟩
  | _ => exact ⟨_, fun _ => rfl, fun _ => wellShaped_okResponse _⟩

/-- Reset is low at this step when the line's sample is not asserted (R340). -/
theorem resetAsserted_eq_false_iff {s : State} : s.resetAsserted = false ↔ s.resetLine.head? ≠ some true := by
  unfold State.resetAsserted
  cases s.resetLine <;> simp

/-- A request has one response, well shaped, and every step that executes its command answers with it (R24): `decode` reads
only the request's word, and the command or the exception reads only the request. -/
theorem exists_response (q : Request) :
    ∃ resp, WellShaped resp ∧ ∀ s : State, s.resetAsserted = false → s.response = none → s.inFlight = some q →
      step s = .next (s.sampleReset.answered resp) := by
  cases hdec : decode q.cmd with
  | ok i =>
    obtain ⟨f, hexec, hshape⟩ := exec_eq_answer_wellShaped i
    refine ⟨f q, hshape q, fun s hlow hr hq => ?_⟩
    rw [step_of_inFlight hlow hr hq, hdec]
    exact (hexec _).trans (answer_of_inFlight (s := s.sampleReset) hq f)
  | error e =>
    refine ⟨illegalResponse, wellShaped_illegalResponse, fun s hlow hr hq => ?_⟩
    rw [step_of_inFlight hlow hr hq, hdec]
    exact raiseIllegal_of_inFlight (s := s.sampleReset) hq

/-- The response of `respondsTo` is the one that every step gives which executes the request. -/
theorem exists_respondsTo (q : Request) :
    ∃ resp, respondsTo q = some resp ∧ WellShaped resp ∧
      ∀ s : State, s.resetAsserted = false → s.response = none → s.inFlight = some q →
        step s = .next (s.sampleReset.answered resp) := by
  obtain ⟨resp, hshape, hstep⟩ := exists_response q
  refine ⟨resp, ?_, hshape, hstep⟩
  rw [respondsTo, hstep { State.reset with inFlight := some q } rfl rfl rfl]
  rfl

theorem wellShaped_of_respondsTo {q : Request} {resp : Response} (h : respondsTo q = some resp) : WellShaped resp := by
  obtain ⟨resp', hresp', hshape, -⟩ := exists_respondsTo q
  obtain rfl : resp' = resp := Option.some.inj (hresp'.symm.trans h)
  exact hshape

/-- A step that executes a request gives it the response it would get on its own (R24). -/
theorem step_of_respondsTo {s : State} {q : Request} {resp : Response} (hlow : s.resetAsserted = false)
    (hr : s.response = none) (hq : s.inFlight = some q) (h : respondsTo q = some resp) :
    step s = .next (s.sampleReset.answered resp) := by
  obtain ⟨resp', hresp', -, hstep⟩ := exists_respondsTo q
  obtain rfl : resp' = resp := Option.some.inj (hresp'.symm.trans h)
  exact hstep s hlow hr hq

/-! ## What a step can be -/

/-- Everything one step can be, with the conditions under which it is that (R24, R340; log 1). -/
inductive Transition (s : State) : State → Prop
  /-- Reset is asserted and lands. -/
  | reset (high : s.resetAsserted = true) : Transition s s.sampleReset.landReset
  /-- The pending response is delivered. -/
  | deliver {resp : Response} (low : s.resetAsserted = false) (pending : s.response = some resp) :
      Transition s (s.sampleReset.deliver resp)
  /-- The request in flight is answered. -/
  | answer {q : Request} {resp : Response} (low : s.resetAsserted = false) (noneDue : s.response = none)
      (busy : s.inFlight = some q) (answers : respondsTo q = some resp) : Transition s (s.sampleReset.answered resp)
  /-- The idle block accepts the next request, if there is one. -/
  | accept (low : s.resetAsserted = false) (noneDue : s.response = none) (idle : s.inFlight = none) :
      Transition s s.sampleReset.accept

theorem step_of_transition {s t : State} (h : Transition s t) : step s = .next t := by
  cases h with
  | reset high => exact step_of_reset high
  | deliver low pending => exact step_of_response low pending
  | answer low noneDue busy answers => exact step_of_respondsTo low noneDue busy answers
  | accept low noneDue idle => exact step_of_idle low noneDue idle

/-- In every state the block has something to do (R27, R324). -/
theorem exists_transition (s : State) : ∃ t, Transition s t := by
  cases hreset : s.resetAsserted with
  | true => exact ⟨_, .reset hreset⟩
  | false =>
    cases hresp : s.response with
    | some resp => exact ⟨_, .deliver hreset hresp⟩
    | none =>
      cases hq : s.inFlight with
      | none => exact ⟨_, .accept hreset hresp hq⟩
      | some q =>
        obtain ⟨resp, hresp', -⟩ := exists_respondsTo q
        exact ⟨_, .answer hreset hresp hq hresp'⟩

/-- `step` goes on to `t` exactly when `t` is one of the four transitions of the block. -/
theorem step_eq_next_iff {s t : State} : step s = .next t ↔ Transition s t := by
  refine ⟨fun h => ?_, step_of_transition⟩
  obtain ⟨u, hu⟩ := exists_transition s
  have hut : Host.Outcome.next u = .next t := (step_of_transition hu).symm.trans h
  injection hut with hut
  exact hut ▸ hu

/-! ## The invariant -/

/-- Settles O9: there is no request in flight and no response anywhere. -/
theorem invariantHoldsAfterReset : Obligations.InvariantHoldsAfterReset := by
  refine ⟨.inl rfl, fun resp h => ?_, fun resp h => ?_⟩
  · exact nomatch h
  · exact absurd h List.not_mem_nil

/-- Settles O10, by the four transitions: a response becomes pending only as the well-shaped answer to the request that leaves
the block, and becomes delivered only from pending. -/
theorem stepKeepsTheInvariant : Obligations.StepKeepsTheInvariant := by
  rintro s t ⟨_, hpending, hdelivered⟩ hstep
  cases step_eq_next_iff.mp hstep with
  | reset => exact ⟨.inl rfl, fun _ h => (nomatch h), hdelivered⟩
  | deliver _ pending =>
    refine ⟨.inr rfl, fun _ h => (nomatch h), fun resp h => ?_⟩
    obtain h | h := List.mem_append.mp h
    · exact hdelivered resp h
    · exact List.mem_singleton.mp h ▸ hpending _ pending
  | answer _ _ _ answers =>
    refine ⟨.inl rfl, fun resp h => ?_, hdelivered⟩
    exact Option.some.inj h ▸ wellShaped_of_respondsTo answers
  | accept _ noneDue =>
    refine ⟨.inr ?_, ?_, ?_⟩
    · simpa using noneDue
    · simpa using hpending
    · simpa using hdelivered

/-- Settles O8. -/
theorem everyStepGoesOn : Obligations.EveryStepGoesOn := fun s =>
  let ⟨t, ht⟩ := exists_transition s
  ⟨t, step_of_transition ht⟩

/-! ## Single steps of the block -/

/-- Settles O5. -/
theorem stepRunsTheDecodedCommand : Obligations.StepRunsTheDecodedCommand := by
  intro s q i hlow hr hq hdec
  rw [step_of_inFlight (resetAsserted_eq_false_iff.mpr hlow) hr hq, hdec]
  rfl

/-- Settles O7. -/
theorem blockAcceptsAndDeliversInOrder : Obligations.BlockAcceptsAndDeliversInOrder := by
  refine ⟨fun s q rest hlow hr hq hreqs => ?_, fun s hlow hr hq hreqs => ?_, fun s resp hlow hr => ?_⟩
  · rw [step_of_idle (resetAsserted_eq_false_iff.mpr hlow) hr hq, State.accept_of_cons s.sampleReset q rest hreqs]
    rfl
  · rw [step_of_idle (resetAsserted_eq_false_iff.mpr hlow) hr hq, State.accept_of_nil s.sampleReset hreqs]
    rfl
  · exact step_of_response (resetAsserted_eq_false_iff.mpr hlow) hr

/-! ## One request after another (R24) -/

/-- Settles O14: both steps give the response of the request on its own. -/
theorem responseDependsOnItsRequestOnly : Obligations.ResponseDependsOnItsRequestOnly := by
  intro s t q hs ht hrs hrt hlows hlowt
  obtain ⟨resp, -, -, hstep⟩ := exists_respondsTo q
  refine ⟨resp, ?_, ?_⟩
  · rw [hstep s (resetAsserted_eq_false_iff.mpr hlows) hrs hs]
    rfl
  · rw [hstep t (resetAsserted_eq_false_iff.mpr hlowt) hrt ht]
    rfl

/-- Three steps of an idle block serve the first request: accept, execute, deliver (log 1). -/
theorem run_three_of_respondsTo {s : State} {q : Request} {rest : List Request} {resp : Response}
    (hq : s.inFlight = none) (hr : s.response = none) (hline : s.resetLine = []) (hreqs : s.requests = q :: rest)
    (h : respondsTo q = some resp) :
    core.run 3 s = .next { s with requests := rest, delivered := s.delivered ++ [resp] } := by
  obtain ⟨_, _, _, _, delivered⟩ := s
  subst hq hr hline hreqs
  have haccept : step ⟨none, none, q :: rest, [], delivered⟩ = .next ⟨some q, none, rest, [], delivered⟩ :=
    step_of_idle rfl rfl rfl
  have hanswer : step ⟨some q, none, rest, [], delivered⟩ = .next ⟨none, some resp, rest, [], delivered⟩ :=
    step_of_respondsTo rfl rfl rfl h
  have hdeliver : step ⟨none, some resp, rest, [], delivered⟩ = .next ⟨none, none, rest, [], delivered ++ [resp]⟩ :=
    step_of_response rfl rfl
  rw [run_of_step haccept, run_of_step hanswer, run_of_step hdeliver]
  rfl

/-- Settles O13, by induction on the requests that wait. -/
theorem requestsAreAnsweredPointwiseInOrder : Obligations.RequestsAreAnsweredPointwiseInOrder := by
  intro s hq hr hline
  induction hreqs : s.requests generalizing s with
  | nil =>
    refine ⟨[], rfl, ?_⟩
    obtain ⟨_, _, _, _, _⟩ := s
    subst hreqs
    rw [List.append_nil]
    rfl
  | cons q rest ih =>
    obtain ⟨resp, hresp, -⟩ := exists_respondsTo q
    have hserve := run_three_of_respondsTo hq hr hline hreqs hresp
    obtain ⟨responses, hmap, hrun⟩ :=
      ih { s with requests := rest, delivered := s.delivered ++ [resp] } hq hr hline rfl
    refine ⟨resp :: responses, by rw [List.map_cons, List.map_cons, hresp, hmap], ?_⟩
    rw [List.length_cons, Nat.mul_succ, Nat.add_comm, run_add hserve, hrun, List.append_assoc, List.singleton_append]

end Sys2Proof.Machine
end

section
/-! The decoder inverted: a word that decodes is the word of its command (R74), so its payload length is the command's. -/

namespace Sys2Proof

/-! ## The decoder's checks, inverted -/

theorem bind_eq_ok {ε α β : Type} {x : Except ε α} {g : α → Except ε β} {b : β} :
    (x >>= g) = .ok b ↔ ∃ a, x = .ok a ∧ g a = .ok b := by
  cases x with
  | ok a => exact ⟨fun h => ⟨a, rfl, h⟩, by rintro ⟨_, h, hg⟩; cases h; exact hg⟩
  | error e => exact ⟨fun h => (nomatch h), by rintro ⟨_, h, -⟩; cases h⟩

theorem code_of_laneCountOf {e : DecodeError} {code : BitVec 2} {n : LaneCount} (h : laneCountOf e code = .ok n) :
    code = n.code := by
  revert h
  cases n <;> revert code <;> cases e <;> decide

theorem code_of_laneWidthOf {e : DecodeError} {code : BitVec 2} {w : LaneWidth} (h : laneWidthOf e code = .ok w) :
    code = w.code := by
  revert h
  cases w <;> revert code <;> cases e <;> decide

theorem code_of_elemTypeOf {code : BitVec 2} {x : ElemType} (h : elemTypeOf code = .ok x) : code = x.code := by
  revert h
  cases x <;> revert code <;> decide

theorem wordShape_bind_eq_ok {f : Fields} {g : LaneCount × LaneWidth → Except DecodeError Instr} {i : Instr}
    (h : (wordShape f >>= g) = .ok i) : ∃ n w, f.na = n.code ∧ f.ea = w.code ∧ g (n, w) = .ok i := by
  obtain ⟨⟨n, w⟩, hshape, hg⟩ := bind_eq_ok.mp h
  obtain ⟨n', hn, hrest⟩ := bind_eq_ok.mp hshape
  obtain ⟨w', hw, hpair⟩ := bind_eq_ok.mp hrest
  cases hpair
  exact ⟨n, w, code_of_laneCountOf hn, code_of_laneWidthOf hw, hg⟩

theorem anyShape_bind_eq_ok {f : Fields} {g : LaneCount × ElemType → Except DecodeError Instr} {i : Instr}
    (h : (anyShape f >>= g) = .ok i) : ∃ n x, f.na = n.code ∧ f.ea = x.code ∧ g (n, x) = .ok i := by
  obtain ⟨⟨n, x⟩, hshape, hg⟩ := bind_eq_ok.mp h
  obtain ⟨n', hn, hrest⟩ := bind_eq_ok.mp hshape
  obtain ⟨x', hx, hpair⟩ := bind_eq_ok.mp hrest
  cases hpair
  exact ⟨n, x, code_of_laneCountOf hn, code_of_elemTypeOf hx, hg⟩

theorem require_bind_eq_ok {check : Bool} {e : DecodeError} {α : Type} {g : Unit → Except DecodeError α} {a : α} :
    (require check e >>= g) = .ok a ↔ check = true ∧ g () = .ok a := by
  cases check
  · exact ⟨fun h => (nomatch h), fun h => (nomatch h.1)⟩
  · exact ⟨fun h => ⟨rfl, h⟩, fun h => h.2⟩

theorem fixedShape_bind_eq_ok {f : Fields} {ea : BitVec 2} {g : LaneCount → Except DecodeError Instr} {i : Instr}
    (h : (fixedShape ea f >>= g) = .ok i) : ∃ n, f.na = n.code ∧ f.ea = ea ∧ g n = .ok i := by
  obtain ⟨n, hshape, hg⟩ := bind_eq_ok.mp h
  obtain ⟨n', hn, hrest⟩ := bind_eq_ok.mp hshape
  obtain ⟨hea, hpair⟩ := require_bind_eq_ok.mp hrest
  cases hpair
  exact ⟨n, code_of_laneCountOf hn, by simpa using hea, hg⟩

theorem noShapeB_bind_eq_ok {f : Fields} {g : Unit → Except DecodeError Instr} {i : Instr}
    (h : (noShapeB f >>= g) = .ok i) : f.nb = 0 ∧ f.eb = 0 ∧ g () = .ok i := by
  obtain ⟨hcheck, hg⟩ := require_bind_eq_ok.mp h
  obtain ⟨hnb, heb⟩ := Bool.and_eq_true_iff.mp hcheck
  exact ⟨beq_iff_eq.mp hnb, beq_iff_eq.mp heb, hg⟩

theorem noImm_bind_eq_ok {f : Fields} {g : Unit → Except DecodeError Instr} {i : Instr}
    (h : (noImm f >>= g) = .ok i) : f.imm = 0 ∧ g () = .ok i := by
  obtain ⟨hcheck, hg⟩ := require_bind_eq_ok.mp h
  exact ⟨by simpa using hcheck, hg⟩

/-! ## The fields of a decoded command, one lemma for each kind of row of R66 -/

theorem fields_ext {f : Fields} {opc : BitVec 8} {na ea nb eb : BitVec 2} {imm : BitVec 16} (hopc : f.opc.toNat = opc.toNat)
    (hna : f.na = na) (hea : f.ea = ea) (hnb : f.nb = nb) (heb : f.eb = eb) (himm : f.imm = imm) :
    (⟨opc, na, ea, nb, eb, imm⟩ : Fields) = f := by
  subst hna hea hnb heb himm
  rw [← BitVec.eq_of_toNat_eq hopc]

/-- No operand on B, and a scalar. -/
theorem fields_of_scalar {f : Fields} {i j : Instr} {opc : BitVec 8} {na ea : BitVec 2}
    (h : (do noShapeB f; return j) = Except.ok i) (hj : fieldsOfInstr j = ⟨opc, na, ea, 0, 0, f.imm⟩)
    (hopc : f.opc.toNat = opc.toNat) (hna : f.na = na) (hea : f.ea = ea) : fieldsOfInstr i = f := by
  obtain ⟨hnb, heb, hret⟩ := noShapeB_bind_eq_ok h
  cases hret
  exact hj.trans (fields_ext hopc hna hea hnb heb rfl)

/-- No scalar, and no operand on B that has a shape of its own. -/
theorem fields_of_noScalar {f : Fields} {i j : Instr} {opc : BitVec 8} {na ea : BitVec 2}
    (h : (do noShapeB f; noImm f; return j) = Except.ok i) (hj : fieldsOfInstr j = ⟨opc, na, ea, 0, 0, 0⟩)
    (hopc : f.opc.toNat = opc.toNat) (hna : f.na = na) (hea : f.ea = ea) : fieldsOfInstr i = f := by
  obtain ⟨hnb, heb, hrest⟩ := noShapeB_bind_eq_ok h
  obtain ⟨himm, hret⟩ := noImm_bind_eq_ok hrest
  cases hret
  exact hj.trans (fields_ext hopc hna hea hnb heb himm)

/-- The index vector of `SWIZZLE` has a shape of its own. -/
theorem fields_of_swizzle {f : Fields} {i : Instr} {n : LaneCount} {w : LaneWidth}
    (h : (do
      let m ← laneCountOf .operandBShape f.nb
      let x ← laneWidthOf .operandBShape f.eb
      noImm f
      return Instr.swizzle n w m x) = Except.ok i)
    (hopc : f.opc.toNat = 0x10) (hna : f.na = n.code) (hea : f.ea = w.code) : fieldsOfInstr i = f := by
  obtain ⟨m, hm, hrest⟩ := bind_eq_ok.mp h
  obtain ⟨x, hx, hrest⟩ := bind_eq_ok.mp hrest
  obtain ⟨himm, hret⟩ := noImm_bind_eq_ok hrest
  cases hret
  exact fields_ext (opc := 0x10) hopc hna hea (code_of_laneCountOf hm) (code_of_laneWidthOf hx) himm

/-- The fixed shape of a pipeline command. -/
theorem fields_of_pipelineShape {f : Fields} {na ea : BitVec 2} (h : (f.na == na && f.ea == ea) = true) :
    f.na = na ∧ f.ea = ea := by
  simpa using h

/-- The fields that decode to a command are the command's own (R62 to R73): no field is ignored. -/
theorem fieldsOfInstr_of_decodeFields {maxLen : BitVec 16} {f : Fields} {i : Instr} (h : decodeFields maxLen f = .ok i) :
    fieldsOfInstr i = f := by
  unfold decodeFields at h
  split at h
  -- integer lanes on A, with a scalar
  case h_1 hopc | h_3 hopc | h_11 hopc | h_20 hopc | h_21 hopc | h_23 hopc | h_26 hopc =>
    obtain ⟨n, w, hna, hea, hrest⟩ := wordShape_bind_eq_ok h
    exact fields_of_scalar hrest rfl hopc hna hea
  -- integer lanes on A, without a scalar
  case h_2 hopc | h_4 hopc | h_18 hopc | h_19 hopc =>
    obtain ⟨n, w, hna, hea, hrest⟩ := wordShape_bind_eq_ok h
    exact fields_of_noScalar hrest rfl hopc hna hea
  -- lanes of one element type on A, with a scalar
  case h_5 hopc | h_7 hopc =>
    obtain ⟨n, hna, hea, hrest⟩ := fixedShape_bind_eq_ok h
    exact fields_of_scalar hrest rfl hopc hna hea
  -- lanes of one element type on A, without a scalar
  case h_6 hopc | h_8 hopc | h_13 hopc | h_14 hopc | h_16 hopc | h_17 hopc | h_27 hopc | h_28 hopc | h_29 hopc =>
    obtain ⟨n, hna, hea, hrest⟩ := fixedShape_bind_eq_ok h
    exact fields_of_noScalar hrest rfl hopc hna hea
  -- `SWIZZLE`
  case h_9 hopc =>
    obtain ⟨n, w, hna, hea, hrest⟩ := wordShape_bind_eq_ok h
    exact fields_of_swizzle hrest hopc hna hea
  -- `ROTATE`: lanes of any element type on A, with a scalar
  case h_10 hopc =>
    obtain ⟨n, x, hna, hea, hrest⟩ := anyShape_bind_eq_ok h
    exact fields_of_scalar hrest rfl hopc hna hea
  -- lanes of any element type on A, without a scalar
  case h_12 hopc | h_15 hopc | h_22 hopc | h_24 hopc | h_25 hopc =>
    obtain ⟨n, x, hna, hea, hrest⟩ := anyShape_bind_eq_ok h
    exact fields_of_noScalar hrest rfl hopc hna hea
  -- `B64CHUNK`
  case h_30 hopc =>
    obtain ⟨hshape, hrest⟩ := require_bind_eq_ok.mp h
    obtain ⟨hna, hea⟩ := fields_of_pipelineShape hshape
    exact fields_of_noScalar hrest rfl hopc hna hea
  -- `B64DECODE`, whose length the decoder checks last
  case h_31 hopc =>
    obtain ⟨hshape, hrest⟩ := require_bind_eq_ok.mp h
    obtain ⟨hna, hea⟩ := fields_of_pipelineShape hshape
    obtain ⟨hnb, heb, hret⟩ := noShapeB_bind_eq_ok hrest
    split at hret
    · cases hret
    · cases hret
      exact fields_ext (opc := 0x41) hopc hna hea hnb heb rfl
  -- `IP4PARSE`
  case h_32 hopc =>
    obtain ⟨hshape, hrest⟩ := require_bind_eq_ok.mp h
    obtain ⟨hna, hea⟩ := fields_of_pipelineShape hshape
    exact fields_of_scalar hrest rfl hopc hna hea
  -- an undefined OPC
  case h_33 => cases h

/-- A word that decodes is the word of the command it decodes to. -/
theorem encode_of_decodeUnder {maxLen : BitVec 16} {cmd : Cmd} {i : Instr} (h : decodeUnder maxLen cmd = .ok i) :
    encode i = cmd := by
  rw [encode, fieldsOfInstr_of_decodeFields h, wordOf_fieldsOf]

/-! ## The payload belongs to its word (R26, R346) -/

/-- The word of `B64DECODE` calls for a payload of its length (R220). -/
theorem payloadLength_encode_b64decode (len : BitVec 16) : payloadLength (encode (.b64decode len)) = len.toNat :=
  (payloadLength_wordOf _).trans (if_pos ⟨rfl, rfl, rfl, rfl, rfl⟩)

/-- The word of `B64DECODE` is the only one with its OPC. -/
theorem opc_ne_of_ne_b64decode {i : Instr} (h : ∀ len, i ≠ .b64decode len) : (fieldsOfInstr i).opc ≠ 0x41 := by
  cases i with
  | b64decode len => exact absurd rfl (h len)
  | _ => exact of_decide_eq_true rfl

/-- Every other command's word calls for no payload (R26). -/
theorem payloadLength_encode_of_ne {i : Instr} (h : ∀ len, i ≠ .b64decode len) : payloadLength (encode i) = 0 :=
  (payloadLength_wordOf _).trans (if_neg fun hopc => opc_ne_of_ne_b64decode h hopc.1)

end Sys2Proof

namespace Sys2Proof.Machine

/-- The `B64DECODE` request that carries the payload `bytes`, its word the command's for their number. -/
def payloadRequest (bytes : List Byte) (h : bytes.length ≤ 65535) : Request where
  cmd := encode (.b64decode (BitVec.ofNat 16 bytes.length))
  a := 0
  b := 0
  payload := bytes
  payload_length := by
    rw [payloadLength_encode_b64decode, BitVec.toNat_ofNat, Nat.mod_eq_of_lt (Nat.lt_succ_of_le h)]

/-- The word of that request (R220). -/
theorem payloadRequest_cmd (bytes : List Byte) (h : bytes.length ≤ 65535) :
    (payloadRequest bytes h).cmd.toNat = 0x41 + 2 ^ 16 * bytes.length := by
  rw [payloadRequest, toNat_encode]
  simp [fieldsOfInstr, Nat.mod_eq_of_lt (Nat.lt_succ_of_le h)]

/-- Settles O55: a word that decodes is the word of its command, whose payload length is known. -/
theorem payloadHasTheLengthOfItsWord : Obligations.PayloadHasTheLengthOfItsWord := by
  refine ⟨fun maxLen len q hdec => ?_, fun maxLen i q hdec hne => ?_, fun bytes hlen => ?_⟩
  · rw [q.payload_length, ← encode_of_decodeUnder hdec, payloadLength_encode_b64decode]
  · rw [← List.length_eq_zero_iff, q.payload_length, ← encode_of_decodeUnder hdec, payloadLength_encode_of_ne hne]
  · exact ⟨payloadRequest bytes hlen, rfl, payloadRequest_cmd bytes hlen⟩

end Sys2Proof.Machine
end

section
/-! The chunk data path of B64 character by character, and the buffer decoder against the reference decoder (R224). -/

namespace Sys2Proof.Machine

/-! ## One character -/

/-- A lane of the validation mask is the mask of its character (R206). -/
theorem toNat_b64Mask (ascii : Lanes 4 8) (i : Fin 4) : (b64Mask ascii i).toNat = maskOfChar (ascii i).toNat := by
  have hchar : ∀ c : Byte, (b64Mask (fun _ => c) 0).toNat = maskOfChar c.toNat := by decide
  exact hchar (ascii i)

/-- A lane of the sextets is the sextet of its character (R204). -/
theorem toNat_b64Sextets (ascii : Lanes 4 8) (i : Fin 4) :
    (b64Sextets ascii i).toNat = sextetOf (ascii i).toNat := by
  have hchar : ∀ c : Byte, (b64Sextets (fun _ => c) 0).toNat = sextetOf c.toNat := by decide
  exact hchar (ascii i)

/-- The tables of R49 and R50 admit exactly the alphabet (R207). -/
theorem maskOfChar_eq_zero_iff (c : Byte) : maskOfChar c.toNat = 0 ↔ (alphabetValue c.toNat).isSome = true := by
  revert c
  decide

/-- The sextet of a character of the alphabet is its value (R204). -/
theorem alphabetValue_eq_some {c : Byte} {v : Nat} (h : alphabetValue c.toNat = some v) :
    v = sextetOf c.toNat ∧ v < 64 := by
  have hchar : ∀ c : Byte, ∀ v ∈ alphabetValue c.toNat, v = sextetOf c.toNat ∧ v < 64 := by decide
  exact hchar c v h

/-! ## One chunk -/

/-- An OR of lanes is zero exactly when every lane is (R141). -/
theorem reduceOr_eq_zero_iff {n w : Nat} (a : Lanes n w) : reduceOr a = 0 ↔ ∀ i, a i = 0 := by
  have hlist : ∀ xs : List (BitVec w), xs.foldr (· ||| ·) 0 = 0 ↔ ∀ x ∈ xs, x = 0 := by
    intro xs
    induction xs with
    | nil => simp
    | cons x xs ih => rw [List.foldr_cons, List.forall_mem_cons, ← ih]; exact BitVec.or_eq_zero_iff
  rw [reduceOr, hlist]
  exact List.forall_mem_ofFn_iff

/-- A chunk is valid exactly when its characters are in the alphabet (R207). -/
theorem b64Valid_eq_true_iff (ascii : Lanes 4 8) :
    b64Valid ascii = true ↔ ∀ i, (alphabetValue (ascii i).toNat).isSome = true := by
  rw [b64Valid, beq_iff_eq, reduceOr_eq_zero_iff]
  refine forall_congr' fun i => ?_
  rw [← maskOfChar_eq_zero_iff, ← toNat_b64Mask]
  exact BitVec.toNat_eq

/-- The amount by which lane i of the widened sextets is shifted is 2 (i + 1) (R208). -/
theorem toNat_shiftAmt (i : Fin 4) : (shiftAmt i).toNat = 2 * (i.val + 1) := by
  revert i
  decide

theorem toNat_b64Shifted (ascii : Lanes 4 8) (i : Fin 4) :
    (b64Shifted ascii i).toNat = (b64Sextets ascii i).toNat * 2 ^ (2 * (i.val + 1)) := by
  rw [b64Shifted, shiftLeftBy, toNat_lsl, toNat_laneWiden, toNat_shiftAmt]
  refine Nat.mod_eq_of_lt ?_
  calc (b64Sextets ascii i).toNat * 2 ^ (2 * (i.val + 1))
      < 2 ^ 8 * 2 ^ (2 * (i.val + 1)) := Nat.mul_lt_mul_of_pos_right (BitVec.isLt _) (Nat.two_pow_pos _)
    _ ≤ 2 ^ 8 * 2 ^ 8 := Nat.mul_le_mul_left _ (Nat.pow_le_pow_right (by decide) (by omega))

/-- A decoded byte: the low byte of its own shifted sextet, and the high byte of the next one's (R209, R210). -/
theorem toNat_b64Decoded (ascii : Lanes 4 8) (i : Fin 4) :
    (b64Decoded ascii i).toNat = ((b64Shifted ascii i).toNat % 256 ||| (b64Shifted ascii (i + 1)).toNat / 256) := by
  rw [b64Decoded, laneOr_apply, BitVec.toNat_or, toNat_laneNarrow, rotate_apply, toNat_laneNarrow, shiftRight, toNat_lsr,
    Nat.mod_eq_of_lt (Nat.div_lt_of_lt_mul (BitVec.isLt _))]
  rfl

/-- The output pattern takes the first three lanes in order (R212). -/
theorem b64Out_apply (ascii : Lanes 4 8) (k : Fin 3) : b64Out ascii k = b64Decoded ascii k.castSucc := by
  fin_cases k <;> rfl

/-- The three bytes of a chunk from its sextets, valid or not (R209 to R212, R215). -/
theorem toNat_b64Out (ascii : Lanes 4 8) :
    (b64Out ascii 0).toNat = ((b64Sextets ascii 0).toNat * 4 % 256 ||| (b64Sextets ascii 1).toNat / 16) ∧
    (b64Out ascii 1).toNat = ((b64Sextets ascii 1).toNat * 16 % 256 ||| (b64Sextets ascii 2).toNat / 4) ∧
    (b64Out ascii 2).toNat = ((b64Sextets ascii 2).toNat * 64 % 256 ||| (b64Sextets ascii 3).toNat) := by
  simp only [b64Out_apply, toNat_b64Decoded, toNat_b64Shifted]
  refine ⟨congrArg _ ?_, congrArg _ ?_, congrArg _ ?_⟩
  · show (b64Sextets ascii 1).toNat * 16 / 256 = _
    omega
  · show (b64Sextets ascii 2).toNat * 64 / 256 = _
    omega
  · show (b64Sextets ascii 3).toNat * 256 / 256 = _
    omega

/-- On sextets below 64 the ORs are sums: the three bytes are those of the 24-bit number of R211. -/
theorem ofFn_b64Out_eq_threeBytes (ascii : Lanes 4 8) (hlt : ∀ i, (b64Sextets ascii i).toNat < 64) :
    List.ofFn (b64Out ascii) = threeBytes ((b64Sextets ascii 0).toNat * 2 ^ 18 + (b64Sextets ascii 1).toNat * 2 ^ 12
      + (b64Sextets ascii 2).toNat * 2 ^ 6 + (b64Sextets ascii 3).toNat) := by
  obtain ⟨h0, h1, h2⟩ := toNat_b64Out ascii
  have hs0 := hlt 0
  have hs1 := hlt 1
  have hs2 := hlt 2
  have hs3 := hlt 3
  generalize (b64Sextets ascii 0).toNat = s0 at *
  generalize (b64Sextets ascii 1).toNat = s1 at *
  generalize (b64Sextets ascii 2).toNat = s2 at *
  generalize (b64Sextets ascii 3).toNat = s3 at *
  rw [show s0 * 4 % 256 = 2 ^ 2 * (s0 % 64) by omega, ← Nat.two_pow_add_eq_or_of_lt (by omega)] at h0
  rw [show s1 * 16 % 256 = 2 ^ 4 * (s1 % 16) by omega, ← Nat.two_pow_add_eq_or_of_lt (by omega)] at h1
  rw [show s2 * 64 % 256 = 2 ^ 6 * (s2 % 4) by omega, ← Nat.two_pow_add_eq_or_of_lt (by omega)] at h2
  have hbytes : List.ofFn (b64Out ascii) = [b64Out ascii 0, b64Out ascii 1, b64Out ascii 2] := rfl
  rw [hbytes, threeBytes]
  congr 1
  · apply BitVec.eq_of_toNat_eq
    rw [h0, BitVec.toNat_ofNat]
    omega
  congr 1
  · apply BitVec.eq_of_toNat_eq
    rw [h1, BitVec.toNat_ofNat]
    omega
  congr 1
  · apply BitVec.eq_of_toNat_eq
    rw [h2, BitVec.toNat_ofNat]
    omega

/-- A chunk whose characters have values: it is valid, and its bytes are those of the values' 24-bit number (R211). -/
theorem b64_chunk_of_values {a b c d : Byte} {v0 v1 v2 v3 : Nat} (h0 : alphabetValue a.toNat = some v0)
    (h1 : alphabetValue b.toNat = some v1) (h2 : alphabetValue c.toNat = some v2) (h3 : alphabetValue d.toNat = some v3) :
    b64Valid (ofList 4 [a, b, c, d]) = true ∧
      List.ofFn (b64Out (ofList 4 [a, b, c, d])) = threeBytes (v0 * 2 ^ 18 + v1 * 2 ^ 12 + v2 * 2 ^ 6 + v3) := by
  obtain ⟨rfl, hlt0⟩ := alphabetValue_eq_some h0
  obtain ⟨rfl, hlt1⟩ := alphabetValue_eq_some h1
  obtain ⟨rfl, hlt2⟩ := alphabetValue_eq_some h2
  obtain ⟨rfl, hlt3⟩ := alphabetValue_eq_some h3
  constructor
  · rw [b64Valid_eq_true_iff]
    intro i
    fin_cases i
    · exact Option.isSome_of_mem h0
    · exact Option.isSome_of_mem h1
    · exact Option.isSome_of_mem h2
    · exact Option.isSome_of_mem h3
  · rw [ofFn_b64Out_eq_threeBytes]
    · simp only [toNat_b64Sextets]
      rfl
    · intro i
      rw [toNat_b64Sextets]
      fin_cases i
      · exact hlt0
      · exact hlt1
      · exact hlt2
      · exact hlt3

/-! ## The whole payload -/

/-- The reference decoder on a chunk and the rest, in the words of the chunk data path (R224). -/
theorem referenceDecode_cons (a b c d : Byte) (rest : List Byte) :
    referenceDecode (a :: b :: c :: d :: rest) =
      if b64Valid (ofList 4 [a, b, c, d]) then (referenceDecode rest).map (List.ofFn (b64Out (ofList 4 [a, b, c, d])) ++ ·)
      else none := by
  rw [referenceDecode]
  split
  case h_1 v0 v1 v2 v3 bytes h0 h1 h2 h3 hrest =>
    obtain ⟨hvalid, hbytes⟩ := b64_chunk_of_values h0 h1 h2 h3
    rw [if_pos hvalid, hbytes, hrest]
    rfl
  case h_2 hnone =>
    split
    case isTrue hvalid =>
      have hchars := (b64Valid_eq_true_iff _).mp hvalid
      obtain ⟨v0, h0⟩ := Option.isSome_iff_exists.mp (hchars 0)
      obtain ⟨v1, h1⟩ := Option.isSome_iff_exists.mp (hchars 1)
      obtain ⟨v2, h2⟩ := Option.isSome_iff_exists.mp (hchars 2)
      obtain ⟨v3, h3⟩ := Option.isSome_iff_exists.mp (hchars 3)
      cases hrest : referenceDecode rest with
      | none => rfl
      | some bytes => exact (hnone v0 v1 v2 v3 bytes h0 h1 h2 h3 hrest).elim
    case isFalse => rfl

/-- The reference decoder decodes whole payloads of valid chunks, and nothing else (R221, R224). -/
theorem referenceDecode_eq : ∀ bytes : List Byte,
    referenceDecode bytes =
      if bytes.length % 4 = 0 ∧ (chunksOf bytes).all b64Valid = true then
        some ((chunksOf bytes).flatMap fun c => List.ofFn (b64Out c))
      else none
  | [] => rfl
  | [_] => rfl
  | [_, _] => rfl
  | [_, _, _] => rfl
  | a :: b :: c :: d :: rest => by
    have hlen : (a :: b :: c :: d :: rest).length % 4 = rest.length % 4 := Nat.add_mod_right rest.length 4
    rw [referenceDecode_cons, referenceDecode_eq rest, chunksOf_cons, hlen, List.all_cons, List.flatMap_cons]
    cases b64Valid (ofList 4 [a, b, c, d]) with
    | false => simp
    | true =>
      by_cases hrest : rest.length % 4 = 0 ∧ (chunksOf rest).all b64Valid = true
      · simp only [Bool.true_and, if_true, if_pos hrest, Option.map_some]
      · simp only [Bool.true_and, if_true, if_neg hrest, Option.map_none]

/-- The buffer decoder is the reference decoder, all or nothing (R221, R224). -/
theorem b64DecodeBuffer_eq (bytes : List Byte) :
    b64DecodeBuffer bytes = ((referenceDecode bytes).getD [], (referenceDecode bytes).isSome) := by
  rw [referenceDecode_eq, b64DecodeBuffer]
  split
  case isTrue hempty =>
    obtain rfl := List.length_eq_zero_iff.mp hempty
    rfl
  case isFalse =>
    by_cases hlen : bytes.length % 4 = 0
    · cases (chunksOf bytes).all b64Valid <;> simp [hlen]
    · simp [hlen]

/-- The reference decoder gives no more bytes than there are characters. -/
theorem length_le_of_referenceDecode {bytes decoded : List Byte} (h : referenceDecode bytes = some decoded) :
    decoded.length ≤ bytes.length := by
  have hbuffer : b64DecodeBuffer bytes = (decoded, true) := by rw [b64DecodeBuffer_eq, h]; rfl
  obtain hfail | ⟨decoded', hok, hle⟩ := b64DecodeBuffer_cases bytes
  · exact nomatch hbuffer.symm.trans hfail
  · cases hbuffer.symm.trans hok
    exact hle

/-- What `B64DECODE` answers to a payload, by the reference decoder (R220, R224). -/
theorem b64BufferResponse_eq (bytes : List Byte) :
    b64BufferResponse bytes = messageResponse
      (bufferResult (referenceDecode bytes).isSome ((referenceDecode bytes).getD []).length)
      ((referenceDecode bytes).getD []) := by
  rw [b64BufferResponse, b64DecodeBuffer_eq]

/-- The word of `B64DECODE` is legal up to B64_MAX_LEN (R73). -/
theorem decodeUnder_encode_b64decode {maxLen len : BitVec 16} (h : len.toNat ≤ maxLen.toNat) :
    decodeUnder maxLen (encode (.b64decode len)) = .ok (.b64decode len) :=
  (decodeUnder_encode maxLen _).trans (if_neg (Nat.not_lt.mpr h))

/-- The request that carries a payload decodes when the payload is within B64_MAX_LEN (R73, R220). -/
theorem decode_payloadRequest {bytes : List Byte} (hlen : bytes.length ≤ 65535)
    (hmax : bytes.length ≤ Config.b64MaxLen.toNat) :
    decode (payloadRequest bytes hlen).cmd = .ok (.b64decode (BitVec.ofNat 16 bytes.length)) := by
  refine decodeUnder_encode_b64decode ?_
  rwa [BitVec.toNat_ofNat, Nat.mod_eq_of_lt (Nat.lt_succ_of_le hlen)]

/-- Settles O56: the step runs `B64DECODE`, and its buffer decoder is the reference decoder. -/
theorem everyPayloadWithinTheLimitIsDecoded : Obligations.EveryPayloadWithinTheLimitIsDecoded := by
  intro bytes hmax
  have hlen : bytes.length < 2 ^ 16 := Nat.lt_of_le_of_lt hmax (BitVec.isLt _)
  refine ⟨payloadRequest bytes (Nat.le_of_lt_succ hlen),
    bufferResult (referenceDecode bytes).isSome ((referenceDecode bytes).getD []).length, rfl, payloadRequest_cmd bytes _, ?_,
    fun s hlow hr hq => ?_⟩
  · cases href : referenceDecode bytes with
    | none => exact toNat_bufferResult false 0 (by decide)
    | some decoded =>
      exact toNat_bufferResult true _ (Nat.lt_of_le_of_lt (length_le_of_referenceDecode href) hlen)
  · calc step s = execB64decode s.sampleReset :=
          stepRunsTheDecodedCommand s _ _ hlow hr hq (decode_payloadRequest _ hmax)
      _ = .next (s.sampleReset.answered (b64BufferResponse bytes)) := answer_of_inFlight (s := s.sampleReset) hq _
      _ = _ := by rw [b64BufferResponse_eq]; rfl

end Sys2Proof.Machine
end

section
/-! What a command reads of the buses and sets on R (R42): its answer is a function of its operands. -/

namespace Sys2Proof.Machine

/-! ## Operands, by the bits they stand in -/

/-- The lanes of a vector stand in the low `n * w` bits of its bus (R41, R42). -/
theorem unpack_eq_of_mod_eq {n w : Nat} {a b : Bus} (h : a.toNat % 2 ^ (n * w) = b.toNat % 2 ^ (n * w)) :
    unpack n w a = unpack n w b := by
  funext i
  refine BitVec.eq_of_getLsbD_eq fun j hj => ?_
  have hbit : w * i.val + j < n * w := by
    calc w * i.val + j < w * (i.val + 1) := by rw [Nat.mul_succ]; omega
      _ ≤ w * n := Nat.mul_le_mul_left _ i.isLt
      _ = n * w := Nat.mul_comm _ _
  have hab := congrArg (·.testBit (w * i.val + j)) h
  simp only [Nat.testBit_mod_two_pow, hbit, decide_true, Bool.true_and, BitVec.testBit_toNat] at hab
  simp only [unpack_apply, BitVec.getLsbD_extractLsb', hj, decide_true, Bool.true_and, hab]

/-- Two requests that differ, if at all, in what R42 lets command `i` ignore: the command words and the bits of A and B above
its operands. -/
structure AgreeOnOperands (i : Instr) (q q' : Request) : Prop where
  a : q.a.toNat % 2 ^ bitsOfA i = q'.a.toNat % 2 ^ bitsOfA i
  b : q.b.toNat % 2 ^ bitsOfB i = q'.b.toNat % 2 ^ bitsOfB i
  payload : q.payload = q'.payload

theorem AgreeOnOperands.operandA_eq {i : Instr} {q q' : Request} {n w : Nat} (h : AgreeOnOperands i q q')
    (hA : bitsOfA i = n * w) : operandA n w q = operandA n w q' :=
  unpack_eq_of_mod_eq (hA ▸ h.a)

theorem AgreeOnOperands.operandB_eq {i : Instr} {q q' : Request} {n w : Nat} (h : AgreeOnOperands i q q')
    (hB : bitsOfB i = n * w) : operandB n w q = operandB n w q' :=
  unpack_eq_of_mod_eq (hB ▸ h.b)

/-! ## Results, by the bits they set -/

/-- A boolean vector has one bit for each lane (R41). -/
theorem pack_bool_lt {n : Nat} (v : Lanes n 1) : (pack v).toNat < 2 ^ n := by
  simpa only [Nat.mul_one] using pack_lt v Nat.one_pos

/-- A scalar on R sets no bit that its number does not have (R140). -/
theorem scalarResponse_r_lt {x k : Nat} (h : x < 2 ^ k) : (scalarResponse x).r.toNat < 2 ^ k := by
  rw [scalarResponse_eq, BitVec.toNat_ofNat]
  exact Nat.lt_of_le_of_lt (Nat.mod_le _ _) h

/-- A bitmask has one bit for each lane (R145). -/
theorem maskOf_lt {n : Nat} (a : Lanes n 1) : maskOf a < 2 ^ n := by
  rw [maskOf_eq]
  calc (∑ i : Fin n, if a i = 1 then 2 ^ i.val else 0)
      ≤ ∑ i : Fin n, 2 ^ i.val := Finset.sum_le_sum fun i _ => by split <;> simp
    _ = ∑ k ∈ Finset.range n, 2 ^ k := Fin.sum_univ_eq_sum_range (2 ^ ·) n
    _ < 2 ^ n := Nat.geomSum_lt le_rfl fun k hk => Finset.mem_range.mp hk

/-- The first true lane or the sentinel N fits in 5 bits, N being at most 16 (R146). -/
theorem findFirstSet_lt (n : LaneCount) (a : Lanes n.count 1) : findFirstSet a < 2 ^ 5 := by
  have hcount : n.count < 2 ^ 5 := by cases n <;> decide
  exact Nat.lt_of_le_of_lt (findFirstSet_le a) hcount

/-- `B64CHUNK` sets no bit of R above `valid` (R214). -/
theorem chunkResult_lt (out : Lanes 3 8) (valid : Bool) : (chunkResult out valid).toNat < 2 ^ 33 := by
  rw [toNat_chunkResult]
  have := (out 0).isLt
  have := (out 1).isLt
  have := (out 2).isLt
  have := valid.toNat_le
  omega

/-- `B64DECODE` sets no bit of R above its length (R220). -/
theorem bufferResult_lt (ok : Bool) (m : Nat) : (bufferResult ok m).toNat < 2 ^ 32 := by
  unfold bufferResult
  simp only [toNat_append_add, toNat_ofBool, BitVec.toNat_ofNat]
  have := ok.toNat_le
  omega

/-- `IP4PARSE` sets no bit of R above err_char (R262). -/
theorem ip4Result_lt (x : Ip4Record) : (ip4Result x).toNat < 2 ^ 56 := by
  rw [toNat_ip4Result, recordWord]
  have := x.octets.isLt
  have := (ip4ErrorCode x.kind).isLt
  have := x.pos.isLt
  have := x.len.isLt
  have := x.field.isLt
  have := x.char.isLt
  omega

/-! ## Commands -/

/-- Command `i` answers with `f`, which reads nothing of a request but the operands of `i` and sets no bit of R above its
result (R42). -/
structure AnswersByOperands (i : Instr) (f : Request → Response) : Prop where
  exec_eq : ∀ s, exec i s = answer s f
  congr : ∀ q q', AgreeOnOperands i q q' → f q = f q'
  r_lt : ∀ q, (f q).r.toNat < 2 ^ bitsOfR i

/-- A command whose answer is a function of a vector on A. -/
theorem AnswersByOperands.of_operandA {i : Instr} {f : Request → Response} (n w : Nat) (hA : bitsOfA i = n * w)
    (hexec : ∀ s, exec i s = answer s f) (hf : ∀ q q', operandA n w q = operandA n w q' → f q = f q')
    (hr : ∀ q, (f q).r.toNat < 2 ^ bitsOfR i) : AnswersByOperands i f :=
  ⟨hexec, fun q q' h => hf q q' (h.operandA_eq hA), hr⟩

/-- A command whose answer is a function of a vector on A and a vector on B. -/
theorem AnswersByOperands.of_operands {i : Instr} {f : Request → Response} (n w m x : Nat) (hA : bitsOfA i = n * w)
    (hB : bitsOfB i = m * x) (hexec : ∀ s, exec i s = answer s f)
    (hf : ∀ q q', operandA n w q = operandA n w q' → operandB m x q = operandB m x q' → f q = f q')
    (hr : ∀ q, (f q).r.toNat < 2 ^ bitsOfR i) : AnswersByOperands i f :=
  ⟨hexec, fun q q' h => hf q q' (h.operandA_eq hA) (h.operandB_eq hB), hr⟩

/-- Every command answers by its operands: the cases are the operand and result shapes of R66. -/
theorem exists_answersByOperands (i : Instr) : ∃ f, AnswersByOperands i f := by
  cases i with
  | shr n w _ | shl n w _ | subs n w _ | muls n w _ | ands n w _ =>
    exact ⟨_, .of_operandA n.count w.bits rfl (fun _ => rfl) (fun _ _ ha => by simp only [ha])
      fun _ => pack_lt _ (width_pos w)⟩
  | shrv n w | shlv n w | add n w | sub n w =>
    exact ⟨_, .of_operands n.count w.bits n.count w.bits rfl rfl (fun _ => rfl) (fun _ _ ha hb => by simp only [ha, hb])
      fun _ => pack_lt _ (width_pos w)⟩
  | swizzle n w m x =>
    exact ⟨_, .of_operands n.count w.bits m.count x.bits rfl rfl (fun _ => rfl) (fun _ _ ha hb => by simp only [ha, hb])
      fun _ => pack_lt _ (width_pos w)⟩
  | shrw n _ | shlw n _ | widen n =>
    exact ⟨_, .of_operandA n.count 8 rfl (fun _ => rfl) (fun _ _ ha => by simp only [ha])
      fun _ => pack_lt _ (by decide)⟩
  | shrwv n | shlwv n =>
    exact ⟨_, .of_operands n.count 8 n.count 8 rfl rfl (fun _ => rfl) (fun _ _ ha hb => by simp only [ha, hb])
      fun _ => pack_lt _ (by decide)⟩
  | rotate n e _ | not n e =>
    exact ⟨_, .of_operandA n.count e.bits rfl (fun _ => rfl) (fun _ _ ha => by simp only [ha])
      fun _ => pack_lt _ (elem_pos e)⟩
  | and n e | or n e =>
    exact ⟨_, .of_operands n.count e.bits n.count e.bits rfl rfl (fun _ => rfl) (fun _ _ ha hb => by simp only [ha, hb])
      fun _ => pack_lt _ (elem_pos e)⟩
  | cmpeq n w _ | cmpgtu n w _ =>
    exact ⟨_, .of_operandA n.count w.bits rfl (fun _ => rfl) (fun _ _ ha => by simp only [ha])
      fun _ => pack_bool_lt _⟩
  | btou n =>
    exact ⟨_, .of_operandA n.count 1 (Nat.mul_one _).symm (fun _ => rfl) (fun _ _ ha => by simp only [ha])
      fun _ => pack_lt _ (by decide)⟩
  | narrow n =>
    exact ⟨_, .of_operandA n.count 16 rfl (fun _ => rfl) (fun _ _ ha => by simp only [ha])
      fun _ => pack_lt _ (by decide)⟩
  | ror n e =>
    exact ⟨_, .of_operandA n.count e.bits rfl (fun _ => rfl) (fun _ _ ha => by simp only [ha])
      fun _ => scalarResponse_r_lt (BitVec.isLt _)⟩
  | rall n | rany n =>
    exact ⟨_, .of_operandA n.count 1 (Nat.mul_one _).symm (fun _ => rfl) (fun _ _ ha => by simp only [ha])
      fun _ => scalarResponse_r_lt (Bool.toNat_lt _)⟩
  | rsum n e =>
    exact ⟨_, .of_operandA n.count e.bits rfl (fun _ => rfl) (fun _ _ ha => by simp only [ha])
      fun _ => scalarResponse_r_lt (Nat.mod_lt _ (Nat.two_pow_pos 32))⟩
  | mask n =>
    exact ⟨_, .of_operandA n.count 1 (Nat.mul_one _).symm (fun _ => rfl) (fun _ _ ha => by simp only [ha])
      fun _ => scalarResponse_r_lt (maskOf_lt _)⟩
  | ffs n =>
    exact ⟨_, .of_operandA n.count 1 (Nat.mul_one _).symm (fun _ => rfl) (fun _ _ ha => by simp only [ha])
      fun _ => scalarResponse_r_lt (findFirstSet_lt n _)⟩
  | b64chunk =>
    exact ⟨_, .of_operandA 4 8 rfl (fun _ => rfl) (fun _ _ ha => by simp only [ha]) fun _ => chunkResult_lt _ _⟩
  | b64decode len =>
    exact ⟨_, fun _ => rfl, fun _ _ h => congrArg b64BufferResponse h.payload, fun _ => bufferResult_lt _ _⟩
  | ip4parse len =>
    exact ⟨_, .of_operandA 16 8 rfl (fun _ => rfl) (fun _ _ ha => by simp only [ha]) fun _ => ip4Result_lt _⟩

/-- Settles O15: the command answers both requests by the operands they agree on. -/
theorem bitsOutsideTheOperandsAreIgnored : Obligations.BitsOutsideTheOperandsAreIgnored := by
  intro i s q q' ha hb hpayload
  obtain ⟨f, hf⟩ := exists_answersByOperands i
  have hanswer (p : Request) :
      exec i { s with inFlight := some p } = .next { s with inFlight := none, response := some (f p) } :=
    (hf.exec_eq _).trans (answer_of_inFlight rfl f)
  have hsame : f q = f q' := hf.congr q q' ⟨ha, hb, hpayload⟩
  exact ⟨f q, hanswer q, hsame ▸ hanswer q', hf.r_lt q⟩

end Sys2Proof.Machine
end

section
/-! The command word, decoded and encoded (30_encoding.md): the legal words are the encodings of the well-formed commands, and
they are the words that the table of R66 admits. -/

namespace Sys2Proof

/-! ## Codes that decode -/

theorem laneCountOf_code (e : DecodeError) (n : LaneCount) : laneCountOf e n.code = .ok n := by cases n <;> rfl

theorem laneWidthOf_code (e : DecodeError) (w : LaneWidth) : laneWidthOf e w.code = .ok w := by cases w <;> rfl

theorem elemTypeOf_code (x : ElemType) : elemTypeOf x.code = .ok x := by cases x <;> rfl

theorem wordShape_of_codes {f : Fields} {n : LaneCount} {w : LaneWidth} (hna : f.na = n.code) (hea : f.ea = w.code) :
    wordShape f = .ok (n, w) := by
  rw [wordShape, hna, hea, laneCountOf_code, laneWidthOf_code]
  rfl

theorem anyShape_of_codes {f : Fields} {n : LaneCount} {x : ElemType} (hna : f.na = n.code) (hea : f.ea = x.code) :
    anyShape f = .ok (n, x) := by
  rw [anyShape, hna, hea, laneCountOf_code, elemTypeOf_code]
  rfl

theorem fixedShape_of_code {f : Fields} {n : LaneCount} {ea : BitVec 2} (hna : f.na = n.code) (hea : f.ea = ea) :
    fixedShape ea f = .ok n := by
  rw [fixedShape, hna, hea, laneCountOf_code, beq_self_eq_true]
  rfl

/-! ## Decoding against encoding -/

/-- The decoder reads back the fields of a command, unless it is a `B64DECODE` of a payload above B64_MAX_LEN (R73). -/
theorem decodeFields_fieldsOfInstr {maxLen : BitVec 16} {i : Instr} (h : i.wellFormedUnder maxLen = true) :
    decodeFields maxLen (fieldsOfInstr i) = .ok i := by
  cases i with
  -- integer lanes on A
  | shr n w _ | shrv n w | shl n w _ | shlv n w | cmpeq n w _ | add n w | sub n w | subs n w _ | muls n w _ | ands n w _
  | cmpgtu n w _ => exact bind_eq_ok.mpr ⟨(n, w), wordShape_of_codes rfl rfl, rfl⟩
  -- lanes of any element type on A
  | rotate n x _ | ror n x | rsum n x | and n x | or n x | not n x =>
    exact bind_eq_ok.mpr ⟨(n, x), anyShape_of_codes rfl rfl, rfl⟩
  -- lanes of one element type on A
  | shrw n _ | shrwv n | shlw n _ | shlwv n | rall n | rany n | mask n | ffs n | btou n | widen n | narrow n =>
    exact bind_eq_ok.mpr ⟨n, fixedShape_of_code rfl rfl, rfl⟩
  | swizzle n w m x =>
    exact bind_eq_ok.mpr ⟨(n, w), wordShape_of_codes rfl rfl, bind_eq_ok.mpr
      ⟨m, laneCountOf_code _ m, bind_eq_ok.mpr ⟨x, laneWidthOf_code _ x, rfl⟩⟩⟩
  | b64chunk | ip4parse len => rfl
  | b64decode len => exact if_neg (Nat.not_lt.mpr (of_decide_eq_true h))

/-- A command that the decoder reads back is well formed: only `B64DECODE` can fail to be (R73). -/
theorem wellFormedUnder_of_decodeFields {maxLen : BitVec 16} {i : Instr}
    (h : decodeFields maxLen (fieldsOfInstr i) = .ok i) : i.wellFormedUnder maxLen = true := by
  cases i with
  | b64decode len =>
    refine decide_eq_true (Nat.not_lt.mp fun hlong => ?_)
    exact nomatch (if_pos hlong).symm.trans h
  | _ => rfl

/-- Decoding and encoding are inverse between the legal words and the well-formed commands (R74). -/
theorem decodeUnder_eq_ok_iff {maxLen : BitVec 16} {cmd : Cmd} {i : Instr} :
    decodeUnder maxLen cmd = .ok i ↔ encode i = cmd ∧ i.wellFormedUnder maxLen = true := by
  constructor
  · intro h
    obtain rfl := encode_of_decodeUnder h
    exact ⟨rfl, wellFormedUnder_of_decodeFields (decodeUnder_encode maxLen i ▸ h)⟩
  · rintro ⟨rfl, hwf⟩
    exact (decodeUnder_encode maxLen i).trans (decodeFields_fieldsOfInstr hwf)

/-- Settles O1: the command's own word, so `decodeUnder_eq_ok_iff` from right to left. -/
theorem encodedCommandDecodesToItself : Obligations.EncodedCommandDecodesToItself :=
  fun _ hwf => decodeUnder_eq_ok_iff.mpr ⟨rfl, hwf⟩

/-- Settles O2: `decodeUnder_eq_ok_iff` from left to right. -/
theorem decodedWordIsItsCommandsOnlyEncoding : Obligations.DecodedWordIsItsCommandsOnlyEncoding :=
  fun _ _ h => decodeUnder_eq_ok_iff.mp h

/-- Settles O4: each word is the encoding of its command. -/
theorem workedEncodingsDecode : Obligations.WorkedEncodingsDecode := by
  have hdecode {cmd : Cmd} {i : Instr} (hcmd : encode i = cmd) (hwf : i.WellFormed) : decode cmd = .ok i :=
    decodeUnder_eq_ok_iff.mpr ⟨hcmd, hwf⟩
  exact ⟨hdecode rfl rfl, hdecode rfl rfl, hdecode rfl rfl, hdecode rfl rfl, hdecode rfl rfl, hdecode rfl rfl,
    hdecode rfl rfl, hdecode rfl rfl⟩

/-! ## The table of R66 -/

/-- What a row of the table of R66 says of the fields of a word (R70 to R73), the limit on payloads apart. -/
structure CommandRow.Admits (row : CommandRow) (f : Fields) : Prop where
  opc : f.opc.toNat = row.opc
  na : f.na.toNat ∈ row.nas
  ea : f.ea.toNat ∈ row.eas
  shapeB : if row.shapeB then f.nb.toNat < 3 ∧ f.eb.toNat < 2 else f.nb.toNat = 0 ∧ f.eb.toNat = 0
  imm : row.scalar = true ∨ f.imm.toNat = 0

/-- A word is legal exactly when some row admits its fields, and its payload is within the limit (R73, R74). -/
theorem legalWord_iff {cmd : Cmd} :
    LegalWord cmd ↔ ∃ row ∈ commandRows, row.Admits (fieldsOf cmd) ∧
      (row.opc = 0x41 → (fieldsOf cmd).imm.toNat ≤ Config.b64MaxLen.toNat) := by
  have hopc : (fieldsOf cmd).opc.toNat = cmd.toNat % 2 ^ 8 := by simp [fieldsOf]
  have hna : (fieldsOf cmd).na.toNat = cmd.toNat / 2 ^ 8 % 4 := by simp [fieldsOf, Nat.shiftRight_eq_div_pow]
  have hea : (fieldsOf cmd).ea.toNat = cmd.toNat / 2 ^ 10 % 4 := by simp [fieldsOf, Nat.shiftRight_eq_div_pow]
  have hnb : (fieldsOf cmd).nb.toNat = cmd.toNat / 2 ^ 12 % 4 := by simp [fieldsOf, Nat.shiftRight_eq_div_pow]
  have heb : (fieldsOf cmd).eb.toNat = cmd.toNat / 2 ^ 14 % 4 := by simp [fieldsOf, Nat.shiftRight_eq_div_pow]
  have himm : (fieldsOf cmd).imm.toNat = cmd.toNat / 2 ^ 16 := by
    have := cmd.isLt
    simp only [fieldsOf, BitVec.extractLsb'_toNat, Nat.shiftRight_eq_div_pow]
    omega
  unfold LegalWord
  rw [← hopc, ← hna, ← hea, ← hnb, ← heb, ← himm]
  refine exists_congr fun row => and_congr_right fun _ => ?_
  constructor
  · rintro ⟨opc, na, ea, shapeB, imm, hlimit⟩
    exact ⟨⟨opc, na, ea, shapeB, imm⟩, hlimit⟩
  · rintro ⟨⟨opc, na, ea, shapeB, imm⟩, hlimit⟩
    exact ⟨opc, na, ea, shapeB, imm, hlimit⟩

/-! ### The codes a row lists -/

theorem LaneCount.code_mem (n : LaneCount) : n.code.toNat ∈ [0, 1, 2] := by cases n <;> decide

theorem LaneWidth.code_mem (w : LaneWidth) : w.code.toNat ∈ [0, 1] := by cases w <;> decide

theorem ElemType.code_mem (x : ElemType) : x.code.toNat ∈ [0, 1, 2] := by cases x <;> decide

theorem LaneCount.code_lt (n : LaneCount) : n.code.toNat < 3 := by cases n <;> decide

theorem LaneWidth.code_lt (w : LaneWidth) : w.code.toNat < 2 := by cases w <;> decide

theorem LaneCount.exists_code : ∀ code : BitVec 2, code.toNat ∈ [0, 1, 2] → ∃ n : LaneCount, code = n.code
  | 0, _ => ⟨.n4, rfl⟩
  | 1, _ => ⟨.n8, rfl⟩
  | 2, _ => ⟨.n16, rfl⟩

theorem LaneWidth.exists_code : ∀ code : BitVec 2, code.toNat ∈ [0, 1] → ∃ w : LaneWidth, code = w.code
  | 0, _ => ⟨.u8, rfl⟩
  | 1, _ => ⟨.u16, rfl⟩

theorem ElemType.exists_code : ∀ code : BitVec 2, code.toNat ∈ [0, 1, 2] → ∃ x : ElemType, code = x.code
  | 0, _ => ⟨.u8, rfl⟩
  | 1, _ => ⟨.u16, rfl⟩
  | 2, _ => ⟨.bool, rfl⟩

/-! ### The rows and the commands -/

/-- The fields of every command are admitted by a row. The cases are the kinds of row in R66; the OPC of the row is the
command's. -/
theorem exists_row_admits (i : Instr) : ∃ row ∈ commandRows, row.Admits (fieldsOfInstr i) := by
  cases i with
  -- integer lanes on A, with a scalar
  | shr n w _ | shl n w _ | cmpeq n w _ | subs n w _ | muls n w _ | ands n w _ | cmpgtu n w _ =>
    exact ⟨⟨_, [0, 1, 2], [0, 1], false, true⟩, of_decide_eq_true rfl,
      rfl, n.code_mem, w.code_mem, ⟨rfl, rfl⟩, .inl rfl⟩
  -- integer lanes on A, without a scalar
  | shrv n w | shlv n w | add n w | sub n w =>
    exact ⟨⟨_, [0, 1, 2], [0, 1], false, false⟩, of_decide_eq_true rfl,
      rfl, n.code_mem, w.code_mem, ⟨rfl, rfl⟩, .inr rfl⟩
  -- lanes of any element type on A
  | rotate n x _ =>
    exact ⟨⟨_, [0, 1, 2], [0, 1, 2], false, true⟩, of_decide_eq_true rfl,
      rfl, n.code_mem, x.code_mem, ⟨rfl, rfl⟩, .inl rfl⟩
  | ror n x | rsum n x | and n x | or n x | not n x =>
    exact ⟨⟨_, [0, 1, 2], [0, 1, 2], false, false⟩, of_decide_eq_true rfl,
      rfl, n.code_mem, x.code_mem, ⟨rfl, rfl⟩, .inr rfl⟩
  -- lanes of one element type on A
  | shrw n _ | shlw n _ =>
    exact ⟨⟨_, [0, 1, 2], [0], false, true⟩, of_decide_eq_true rfl,
      rfl, n.code_mem, .head _, ⟨rfl, rfl⟩, .inl rfl⟩
  | shrwv n | shlwv n | widen n =>
    exact ⟨⟨_, [0, 1, 2], [0], false, false⟩, of_decide_eq_true rfl,
      rfl, n.code_mem, .head _, ⟨rfl, rfl⟩, .inr rfl⟩
  | rall n | rany n | mask n | ffs n | btou n =>
    exact ⟨⟨_, [0, 1, 2], [2], false, false⟩, of_decide_eq_true rfl,
      rfl, n.code_mem, .head _, ⟨rfl, rfl⟩, .inr rfl⟩
  | narrow n =>
    exact ⟨⟨_, [0, 1, 2], [1], false, false⟩, of_decide_eq_true rfl,
      rfl, n.code_mem, .head _, ⟨rfl, rfl⟩, .inr rfl⟩
  -- an index vector on B, of a shape of its own
  | swizzle n w m x =>
    exact ⟨⟨_, [0, 1, 2], [0, 1], true, false⟩, of_decide_eq_true rfl,
      rfl, n.code_mem, w.code_mem, ⟨m.code_lt, x.code_lt⟩, .inr rfl⟩
  -- the pipelines
  | b64chunk =>
    exact ⟨⟨_, [0], [0], false, false⟩, of_decide_eq_true rfl,
      rfl, .head _, .head _, ⟨rfl, rfl⟩, .inr rfl⟩
  | b64decode len =>
    exact ⟨⟨_, [0], [0], false, true⟩, of_decide_eq_true rfl,
      rfl, .head _, .head _, ⟨rfl, rfl⟩, .inl rfl⟩
  | ip4parse len =>
    exact ⟨⟨_, [2], [0], false, true⟩, of_decide_eq_true rfl,
      rfl, .head _, .head _, ⟨rfl, rfl⟩, .inl rfl⟩

/-- Every word whose fields the row admits is the word of a command. -/
def CommandRow.Covered (row : CommandRow) : Prop := ∀ f, row.Admits f → ∃ i, fieldsOfInstr i = f

/-- Without an operand on B that has a shape of its own, a row leaves nothing of the fields open but NA, EA and, where it has a
scalar, IMM. -/
theorem CommandRow.Admits.fields_eq {f : Fields} {opc : BitVec 8} {nas eas : List Nat} {scalar : Bool} {na ea : BitVec 2}
    (h : CommandRow.Admits ⟨opc.toNat, nas, eas, false, scalar⟩ f) (hna : f.na = na) (hea : f.ea = ea) :
    (⟨opc, na, ea, 0, 0, if scalar then f.imm else 0⟩ : Fields) = f := by
  obtain ⟨hnb, heb⟩ := h.shapeB
  refine fields_ext h.opc hna hea (BitVec.eq_of_toNat_eq hnb) (BitVec.eq_of_toNat_eq heb) ?_
  cases scalar with
  | true => rfl
  | false => exact BitVec.eq_of_toNat_eq (h.imm.resolve_left Bool.false_ne_true)

/-- The row of a command on integer lanes. -/
theorem covered_word (opc : BitVec 8) (scalar : Bool) (command : LaneCount → LaneWidth → BitVec 16 → Instr)
    (hfields : ∀ n w imm, fieldsOfInstr (command n w imm) = ⟨opc, n.code, w.code, 0, 0, if scalar then imm else 0⟩) :
    CommandRow.Covered ⟨opc.toNat, [0, 1, 2], [0, 1], false, scalar⟩ := by
  intro f h
  obtain ⟨n, hn⟩ := LaneCount.exists_code f.na h.na
  obtain ⟨w, hw⟩ := LaneWidth.exists_code f.ea h.ea
  exact ⟨command n w f.imm, (hfields n w f.imm).trans (h.fields_eq hn hw)⟩

/-- The row of a command on lanes of any element type. -/
theorem covered_any (opc : BitVec 8) (scalar : Bool) (command : LaneCount → ElemType → BitVec 16 → Instr)
    (hfields : ∀ n x imm, fieldsOfInstr (command n x imm) = ⟨opc, n.code, x.code, 0, 0, if scalar then imm else 0⟩) :
    CommandRow.Covered ⟨opc.toNat, [0, 1, 2], [0, 1, 2], false, scalar⟩ := by
  intro f h
  obtain ⟨n, hn⟩ := LaneCount.exists_code f.na h.na
  obtain ⟨x, hx⟩ := ElemType.exists_code f.ea h.ea
  exact ⟨command n x f.imm, (hfields n x f.imm).trans (h.fields_eq hn hx)⟩

/-- The row of a command on lanes of one element type. -/
theorem covered_fixed (opc : BitVec 8) (ea : BitVec 2) (scalar : Bool) (command : LaneCount → BitVec 16 → Instr)
    (hfields : ∀ n imm, fieldsOfInstr (command n imm) = ⟨opc, n.code, ea, 0, 0, if scalar then imm else 0⟩) :
    CommandRow.Covered ⟨opc.toNat, [0, 1, 2], [ea.toNat], false, scalar⟩ := by
  intro f h
  obtain ⟨n, hn⟩ := LaneCount.exists_code f.na h.na
  exact ⟨command n f.imm, (hfields n f.imm).trans
    (h.fields_eq hn (BitVec.eq_of_toNat_eq (List.mem_singleton.mp h.ea)))⟩

/-- The row of a pipeline command. -/
theorem covered_pipeline (opc : BitVec 8) (na ea : BitVec 2) (scalar : Bool) (command : BitVec 16 → Instr)
    (hfields : ∀ imm, fieldsOfInstr (command imm) = ⟨opc, na, ea, 0, 0, if scalar then imm else 0⟩) :
    CommandRow.Covered ⟨opc.toNat, [na.toNat], [ea.toNat], false, scalar⟩ := by
  intro f h
  exact ⟨command f.imm, (hfields f.imm).trans (h.fields_eq (BitVec.eq_of_toNat_eq (List.mem_singleton.mp h.na))
    (BitVec.eq_of_toNat_eq (List.mem_singleton.mp h.ea)))⟩

/-- The row of `SWIZZLE`. -/
theorem covered_swizzle : CommandRow.Covered ⟨0x10, [0, 1, 2], [0, 1], true, false⟩ := by
  intro f h
  obtain ⟨hnb, heb⟩ := h.shapeB
  obtain ⟨n, hn⟩ := LaneCount.exists_code f.na h.na
  obtain ⟨w, hw⟩ := LaneWidth.exists_code f.ea h.ea
  obtain ⟨m, hm⟩ := LaneCount.exists_code f.nb (by simp only [List.mem_cons, List.not_mem_nil]; omega)
  obtain ⟨x, hx⟩ := LaneWidth.exists_code f.eb (by simp only [List.mem_cons, List.not_mem_nil]; omega)
  have himm : f.imm = 0 := BitVec.eq_of_toNat_eq (h.imm.resolve_left Bool.false_ne_true)
  exact ⟨.swizzle n w m x, fields_ext (opc := 0x10) h.opc hn hw hm hx himm⟩

/-- Every row of the table is the row of a command. -/
theorem covered_of_mem {row : CommandRow} (hrow : row ∈ commandRows) : row.Covered := by
  have hall : List.Forall CommandRow.Covered commandRows :=
    ⟨covered_word 0x01 true .shr fun _ _ _ => rfl,
     covered_word 0x02 false (fun n w _ => .shrv n w) fun _ _ _ => rfl,
     covered_word 0x03 true .shl fun _ _ _ => rfl,
     covered_word 0x04 false (fun n w _ => .shlv n w) fun _ _ _ => rfl,
     covered_fixed 0x05 0 true .shrw fun _ _ => rfl,
     covered_fixed 0x06 0 false (fun n _ => .shrwv n) fun _ _ => rfl,
     covered_fixed 0x07 0 true .shlw fun _ _ => rfl,
     covered_fixed 0x08 0 false (fun n _ => .shlwv n) fun _ _ => rfl,
     covered_swizzle,
     covered_any 0x11 true .rotate fun _ _ _ => rfl,
     covered_word 0x18 true .cmpeq fun _ _ _ => rfl,
     covered_any 0x20 false (fun n x _ => .ror n x) fun _ _ _ => rfl,
     covered_fixed 0x21 2 false (fun n _ => .rall n) fun _ _ => rfl,
     covered_fixed 0x22 2 false (fun n _ => .rany n) fun _ _ => rfl,
     covered_any 0x23 false (fun n x _ => .rsum n x) fun _ _ _ => rfl,
     covered_fixed 0x24 2 false (fun n _ => .mask n) fun _ _ => rfl,
     covered_fixed 0x25 2 false (fun n _ => .ffs n) fun _ _ => rfl,
     covered_word 0x30 false (fun n w _ => .add n w) fun _ _ _ => rfl,
     covered_word 0x31 false (fun n w _ => .sub n w) fun _ _ _ => rfl,
     covered_word 0x32 true .subs fun _ _ _ => rfl,
     covered_word 0x33 true .muls fun _ _ _ => rfl,
     covered_any 0x34 false (fun n x _ => .and n x) fun _ _ _ => rfl,
     covered_word 0x35 true .ands fun _ _ _ => rfl,
     covered_any 0x36 false (fun n x _ => .or n x) fun _ _ _ => rfl,
     covered_any 0x37 false (fun n x _ => .not n x) fun _ _ _ => rfl,
     covered_word 0x38 true .cmpgtu fun _ _ _ => rfl,
     covered_fixed 0x39 2 false (fun n _ => .btou n) fun _ _ => rfl,
     covered_fixed 0x3A 0 false (fun n _ => .widen n) fun _ _ => rfl,
     covered_fixed 0x3B 1 false (fun n _ => .narrow n) fun _ _ => rfl,
     covered_pipeline 0x40 0 0 false (fun _ => .b64chunk) fun _ => rfl,
     covered_pipeline 0x41 0 0 true .b64decode fun _ => rfl,
     covered_pipeline 0x48 2 0 true .ip4parse fun _ => rfl⟩
  exact List.forall_iff_forall_mem.mp hall row hrow

/-- A command is well formed when its payload is within the limit, if its OPC is that of `B64DECODE` (R73). -/
theorem wellFormedUnder_iff {maxLen : BitVec 16} {i : Instr} :
    i.wellFormedUnder maxLen = true ↔
      ((fieldsOfInstr i).opc.toNat = 0x41 → (fieldsOfInstr i).imm.toNat ≤ maxLen.toNat) := by
  cases i with
  | b64decode len => exact decide_eq_true_iff.trans ⟨fun h _ => h, fun h => h rfl⟩
  | _ => exact iff_of_true rfl fun h => absurd h (of_decide_eq_true rfl)

/-- Settles O3: the legal words are the encodings of the well-formed commands, and each command has its row in the table. -/
theorem wordIsLegalExactlyByTheRules : Obligations.WordIsLegalExactlyByTheRules := by
  intro cmd
  rw [legalWord_iff]
  constructor
  · rintro ⟨i, hdec⟩
    obtain ⟨rfl, hwf⟩ := decodeUnder_eq_ok_iff.mp hdec
    obtain ⟨row, hrow, hadmits⟩ := exists_row_admits i
    have hfields : fieldsOf (encode i) = fieldsOfInstr i := fieldsOf_wordOf _
    rw [hfields]
    exact ⟨row, hrow, hadmits, fun hopc => wellFormedUnder_iff.mp hwf (hadmits.opc.trans hopc)⟩
  · rintro ⟨row, hrow, hadmits, hlimit⟩
    obtain ⟨i, hi⟩ := covered_of_mem hrow (fieldsOf cmd) hadmits
    rw [← hi] at hadmits hlimit
    have hcmd : encode i = cmd := by rw [encode, hi, wordOf_fieldsOf]
    have hwf : i.WellFormed := wellFormedUnder_iff.mpr fun hopc => hlimit (hadmits.opc.symm.trans hopc)
    exact ⟨i, decodeUnder_eq_ok_iff.mpr ⟨hcmd, hwf⟩⟩

end Sys2Proof
end

section
/-! The pseudo-instructions of R77: what the chain of their commands gives on R. -/

namespace Sys2Proof.Machine

/-! ## Commands in a chain -/

/-- The result of a command that gives a vector of the vector on its bus A. -/
theorem resultOf_of_vector {i : Instr} {n w m x : Nat} (op : Lanes n w → Lanes m x)
    (hexec : ∀ s, exec i s = answer s fun q => vectorResponse (op (operandA n w q))) (a b : Bus) :
    resultOf i a b = some (pack (op (unpack n w a))) := by
  rw [resultOf, hexec, answer_of_inFlight rfl]
  rfl

/-- Such a command takes up the vector that the command before it gave (R41). -/
theorem resultOf_pack {i : Instr} {n w m x : Nat} (op : Lanes n w → Lanes m x)
    (hexec : ∀ s, exec i s = answer s fun q => vectorResponse (op (operandA n w q))) (hw : 0 < w) (hn : n * w ≤ 256)
    (v : Lanes n w) (b : Bus) : resultOf i (pack v) b = some (pack (op v)) := by
  rw [resultOf_of_vector op hexec, unpack_pack v hw hn]

theorem chainResult_nil (a : Bus) : chainResult [] a = some a := rfl

/-- The rest of a chain works on the result of its first command (R53, R350). -/
theorem chainResult_cons {i : Instr} {a r : Bus} (h : resultOf i a 0 = some r) (is : List Instr) :
    chainResult (i :: is) a = chainResult is r := by
  rw [chainResult, h, Option.bind_some]

/-! ## ISDIGIT (R77, R179) -/

/-- Which lanes hold a decimal digit character, as the three commands compute it. -/
def digitLanes {n : Nat} (a : Lanes n 8) : Lanes n 1 := laneNot (compareGt (laneSubScalar a 0x30) 9)

/-- Less `'0'` modulo 256, the digits are the characters that are at most 9 (R179). -/
theorem toNat_digitLanes {n : Nat} (a : Lanes n 8) (i : Fin n) :
    (digitLanes a i).toNat = if IsDigit (a i).toNat then 1 else 0 := by
  have hchar : ∀ c : Byte, (digitLanes (fun _ : Fin 1 => c) 0).toNat = if IsDigit c.toNat then 1 else 0 := by decide
  exact hchar (a i)

theorem chainResult_isdigit (n : LaneCount) (a : Bus) :
    chainResult (expand (.isdigit n)) a = some (pack (digitLanes (unpack n.count 8 a))) := by
  have hsubs : resultOf (.subs n .u8 0x30) a 0 = some (pack (laneSubScalar (unpack n.count 8 a) 0x30)) :=
    resultOf_of_vector (laneSubScalar · 0x30) (fun _ => rfl) a 0
  have hcmpgtu (v : Lanes n.count 8) : resultOf (.cmpgtu n .u8 9) (pack v) 0 = some (pack (compareGt v 9)) :=
    resultOf_pack (compareGt · 9) (fun _ => rfl) (by decide) (byte_fits n) v 0
  have hnot (v : Lanes n.count 1) : resultOf (.not n .bool) (pack v) 0 = some (pack (laneNot v)) :=
    resultOf_pack laneNot (fun _ => rfl) (by decide) (bool_fits n) v 0
  rw [expand, chainResult_cons hsubs, chainResult_cons (hcmpgtu _), chainResult_cons (hnot _), chainResult_nil, digitLanes]

/-- Settles O38. -/
theorem isDigitTellsDigits : Obligations.IsDigitTellsDigits := by
  intro n a
  refine ⟨_, chainResult_isdigit n a, fun k hk => ?_, pack_bool_lt _⟩
  calc laneOf 1 (pack (digitLanes (unpack n.count 8 a))) k
      = (digitLanes (unpack n.count 8 a) ⟨k, hk⟩).toNat := laneOf_pack _ (by decide) (bool_fits n) ⟨k, hk⟩
    _ = if IsDigit (laneOf 8 a k) then 1 else 0 := by rw [toNat_digitLanes, toNat_unpack]

/-! ## HIBYTE, LOBYTE and MOV (R77) -/

theorem chainResult_lobyte (n : LaneCount) (a : Bus) :
    chainResult (expand (.lobyte n)) a = some (pack (laneNarrow (unpack n.count 16 a))) := by
  rw [expand, chainResult_cons (resultOf_of_vector laneNarrow (fun _ => rfl) a 0), chainResult_nil]

theorem chainResult_hibyte (n : LaneCount) (a : Bus) :
    chainResult (expand (.hibyte n)) a = some (pack (laneNarrow (shiftRight (unpack n.count 16 a) 8))) := by
  have hshr : resultOf (.shr n .u16 8) a 0 = some (pack (shiftRight (unpack n.count 16 a) 8)) :=
    resultOf_of_vector (shiftRight · 8) (fun _ => rfl) a 0
  have hnarrow (v : Lanes n.count 16) : resultOf (.narrow n) (pack v) 0 = some (pack (laneNarrow v)) :=
    resultOf_pack laneNarrow (fun _ => rfl) (by decide) (wide_fits n) v 0
  rw [expand, chainResult_cons hshr, chainResult_cons (hnarrow _), chainResult_nil]

/-- A 16-bit lane is its high byte and its low byte. -/
theorem toNat_eq_highByte_add_lowByte {n : Nat} (a : Lanes n 16) (i : Fin n) :
    (a i).toNat = 256 * (laneNarrow (shiftRight a 8) i).toNat + (laneNarrow a i).toNat := by
  have := (a i).isLt
  rw [toNat_laneNarrow, toNat_laneNarrow, shiftRight, toNat_lsr]
  omega

/-- Rotation by 0 is the identity (R122). -/
theorem rotate_zero {n w : Nat} (a : Lanes n w) : rotate a 0 = a := by
  funext i
  rw [rotate_apply]
  exact congrArg a (Fin.ext (Nat.mod_eq_of_lt i.isLt))

/-- Unpacking and packing keeps the bits of the lanes and clears those above (R41, R42). -/
theorem toNat_pack_unpack (n w : Nat) (hw : 0 < w) (bus : Bus) :
    (pack (unpack n w bus)).toNat = bus.toNat % 2 ^ (n * w) := by
  refine Nat.eq_of_testBit_eq fun b => ?_
  rw [BitVec.testBit_toNat, getLsbD_pack _ hw, Nat.testBit_mod_two_pow, BitVec.testBit_toNat]
  by_cases hb : b < n * w
  · have hlane : b / w < n := Nat.div_lt_of_lt_mul (Nat.mul_comm n w ▸ hb)
    have hbit : (unpack n w bus ⟨b / w, hlane⟩).getLsbD (b % w) = bus.getLsbD b := by
      rw [unpack_apply, BitVec.getLsbD_extractLsb', Nat.div_add_mod, decide_eq_true (Nat.mod_lt b hw), Bool.true_and]
    rw [dif_pos hlane, hbit, decide_eq_true hb]
    by_cases hbus : b < 256
    · rw [decide_eq_true hbus]
    · rw [BitVec.getLsbD_of_ge _ _ (Nat.le_of_not_lt hbus), Bool.and_false, Bool.and_false]
  · have hlane : ¬ b / w < n := fun h => hb ((Nat.div_lt_iff_lt_mul hw).mp h)
    rw [dif_neg hlane, decide_eq_false hb, Bool.and_false, Bool.false_and]

theorem chainResult_mov (n : LaneCount) (e : ElemType) (a : Bus) :
    chainResult (expand (.mov n e)) a = some (pack (unpack n.count e.bits a)) := by
  have hrotate : resultOf (.rotate n e 0) a 0 = some (pack (rotate (unpack n.count e.bits a) 0)) :=
    resultOf_of_vector (rotate · 0) (fun _ => rfl) a 0
  rw [expand, chainResult_cons hrotate, chainResult_nil, rotate_zero]

/-- Settles O39. -/
theorem bytePseudoInstructions : Obligations.BytePseudoInstructions := by
  refine ⟨fun n a => ⟨_, _, chainResult_hibyte n a, chainResult_lobyte n a, fun k hk => ?_⟩, fun n e a =>
    ⟨_, chainResult_mov n e a, toNat_pack_unpack _ _ (elem_pos e) a⟩⟩
  have hlane (v : Lanes n.count 8) : laneOf 8 (pack v) k = (v ⟨k, hk⟩).toNat :=
    laneOf_pack v (by decide) (byte_fits n) ⟨k, hk⟩
  rw [hlane, hlane, ← toNat_eq_highByte_add_lowByte, toNat_unpack]

end Sys2Proof.Machine
end

section
/-! The shift commands (40_shift.md): a shifted lane as a number (R100), each command's word and lanes (R101 to R108), and the
relations between the commands (R109). -/

namespace Sys2Proof.Machine

/-! ## Words and operands -/

/-- The word of a command has the command's fields (R61). -/
theorem hasWord_fieldsOfInstr (i : Instr) :
    HasWord i (fieldsOfInstr i).opc.toNat (fieldsOfInstr i).na.toNat (fieldsOfInstr i).ea.toNat (fieldsOfInstr i).nb.toNat
      (fieldsOfInstr i).eb.toNat (fieldsOfInstr i).imm.toNat :=
  toNat_encode i

theorem toNat_operandA {n w : Nat} (q : Request) (i : Fin n) : (operandA n w q i).toNat = laneOf w q.a i :=
  toNat_unpack q.a i

theorem toNat_operandB {n w : Nat} (q : Request) (i : Fin n) : (operandB n w q i).toNat = laneOf w q.b i :=
  toNat_unpack q.b i

/-! ## Shifted lanes -/

section ShiftedLanes

variable {n w v : Nat}

/-- The bound of R100 at the lane width, written out: it changes nothing, since x < 2^W. -/
theorem toNat_lsr_eq_ite (x : BitVec w) (s : Nat) : (lsr x s).toNat = if s < w then x.toNat / 2 ^ s else 0 := by
  split
  case isTrue => exact toNat_lsr x s
  case isFalse h => rw [lsr, if_neg h]; rfl

/-- The bound of R100 at the lane width, written out: it changes nothing, since 2^s is then 0 modulo 2^W. -/
theorem toNat_lsl_eq_ite (x : BitVec w) (s : Nat) : (lsl x s).toNat = if s < w then x.toNat * 2 ^ s % 2 ^ w else 0 := by
  split
  case isTrue => exact toNat_lsl x s
  case isFalse h => rw [lsl, if_neg h]; rfl

theorem toNat_shiftRight (a : Lanes n w) (s : Nat) (i : Fin n) :
    (shiftRight a s i).toNat = if s < w then (a i).toNat / 2 ^ s else 0 :=
  toNat_lsr_eq_ite (a i) s

theorem toNat_shiftLeft (a : Lanes n w) (s : Nat) (i : Fin n) :
    (shiftLeft a s i).toNat = if s < w then (a i).toNat * 2 ^ s % 2 ^ w else 0 :=
  toNat_lsl_eq_ite (a i) s

theorem toNat_shiftRightBy (a : Lanes n w) (b : Lanes n v) (i : Fin n) :
    (shiftRightBy a b i).toNat = if (b i).toNat < w then (a i).toNat / 2 ^ (b i).toNat else 0 :=
  toNat_lsr_eq_ite (a i) (b i).toNat

theorem toNat_shiftLeftBy (a : Lanes n w) (b : Lanes n v) (i : Fin n) :
    (shiftLeftBy a b i).toNat = if (b i).toNat < w then (a i).toNat * 2 ^ (b i).toNat % 2 ^ w else 0 :=
  toNat_lsl_eq_ite (a i) (b i).toNat

/-- Shifting right twice adds the amounts, whether or not a bound of R100 is met on the way (R109). -/
theorem shiftRight_shiftRight (a : Lanes n w) (s t : Nat) : shiftRight (shiftRight a s) t = shiftRight a (s + t) := by
  funext i
  refine BitVec.eq_of_toNat_eq ?_
  calc (lsr (lsr (a i) s) t).toNat
      = (a i).toNat / 2 ^ s / 2 ^ t := by rw [toNat_lsr, toNat_lsr]
    _ = (a i).toNat / 2 ^ (s + t) := by rw [Nat.div_div_eq_div_mul, Nat.pow_add]
    _ = (lsr (a i) (s + t)).toNat := (toNat_lsr (a i) (s + t)).symm

/-- A shift right may be done before or after widening: the bits it drops are the same, although the bound of R100 is 8 before
and 16 after (R109). -/
theorem laneWiden_shiftRight (a : Lanes n 8) (s : Nat) : laneWiden (shiftRight a s) = shiftRight (laneWiden a) s := by
  funext i
  refine BitVec.eq_of_toNat_eq ?_
  calc (laneWiden (shiftRight a s) i).toNat
      = (lsr (a i) s).toNat := toNat_laneWiden (shiftRight a s) i
    _ = (a i).toNat / 2 ^ s := toNat_lsr (a i) s
    _ = (laneWiden a i).toNat / 2 ^ s := by rw [toNat_laneWiden]
    _ = (lsr (laneWiden a i) s).toNat := (toNat_lsr (laneWiden a i) s).symm

end ShiftedLanes

/-! ## The commands (R101 to R108) -/

/-- Settles O16. -/
theorem shiftsByAScalar : Obligations.ShiftsByAScalar := by
  intro n w imm s q hq
  refine ⟨hasWord_fieldsOfInstr (.shr n w imm), hasWord_fieldsOfInstr (.shl n w imm), ?shr, ?shl⟩
  case shr =>
    exact answersLanes_of_pack (shiftRight (operandA n.count w.bits q) imm.toNat) (width_pos w) (width_fits n w) hq _ rfl rfl _
      fun k => by rw [toNat_shiftRight, toNat_operandA]
  case shl =>
    exact answersLanes_of_pack (shiftLeft (operandA n.count w.bits q) imm.toNat) (width_pos w) (width_fits n w) hq _ rfl rfl _
      fun k => by rw [toNat_shiftLeft, toNat_operandA]

/-- Settles O17. -/
theorem shiftsByLanes : Obligations.ShiftsByLanes := by
  intro n w s q hq
  refine ⟨hasWord_fieldsOfInstr (.shrv n w), hasWord_fieldsOfInstr (.shlv n w), ?shrv, ?shlv⟩
  case shrv =>
    exact answersLanes_of_pack (shiftRightBy (operandA n.count w.bits q) (operandB n.count w.bits q)) (width_pos w)
      (width_fits n w) hq _ rfl rfl _ fun k => by rw [toNat_shiftRightBy, toNat_operandA, toNat_operandB]
  case shlv =>
    exact answersLanes_of_pack (shiftLeftBy (operandA n.count w.bits q) (operandB n.count w.bits q)) (width_pos w)
      (width_fits n w) hq _ rfl rfl _ fun k => by rw [toNat_shiftLeftBy, toNat_operandA, toNat_operandB]

/-- Settles O18: the lanes are those of O16 on the widened operand. -/
theorem wideningShiftsByAScalar : Obligations.WideningShiftsByAScalar := by
  intro n imm s q hq
  refine ⟨hasWord_fieldsOfInstr (.shrw n imm), hasWord_fieldsOfInstr (.shlw n imm), ?shrw, ?shlw⟩
  case shrw =>
    exact answersLanes_of_pack (shiftRight (laneWiden (operandA n.count 8 q)) imm.toNat) (by decide) (wide_fits n) hq _ rfl rfl _
      fun k => by rw [toNat_shiftRight, toNat_laneWiden, toNat_operandA]
  case shlw =>
    exact answersLanes_of_pack (shiftLeft (laneWiden (operandA n.count 8 q)) imm.toNat) (by decide) (wide_fits n) hq _ rfl rfl _
      fun k => by rw [toNat_shiftLeft, toNat_laneWiden, toNat_operandA]

/-- Settles O19: the lanes are those of O17 on the widened operand, the amounts still `u8` lanes. -/
theorem wideningShiftsByLanes : Obligations.WideningShiftsByLanes := by
  intro n s q hq
  refine ⟨hasWord_fieldsOfInstr (.shrwv n), hasWord_fieldsOfInstr (.shlwv n), ?shrwv, ?shlwv⟩
  case shrwv =>
    exact answersLanes_of_pack (shiftRightBy (laneWiden (operandA n.count 8 q)) (operandB n.count 8 q)) (by decide)
      (wide_fits n) hq _ rfl rfl _ fun k => by rw [toNat_shiftRightBy, toNat_laneWiden, toNat_operandA, toNat_operandB]
  case shlwv =>
    exact answersLanes_of_pack (shiftLeftBy (laneWiden (operandA n.count 8 q)) (operandB n.count 8 q)) (by decide)
      (wide_fits n) hq _ rfl rfl _ fun k => by rw [toNat_shiftLeftBy, toNat_laneWiden, toNat_operandA, toNat_operandB]

/-! ## Relations between the commands (R109) -/

/-- Two commands in a chain, the second on the lanes that the first gives, do the one operation after the other (R41, R53). -/
theorem chainResult_pair {i j : Instr} {n w m x p y : Nat} (op : Lanes n w → Lanes m x) (op' : Lanes m x → Lanes p y)
    (hi : ∀ s, exec i s = answer s fun q => vectorResponse (op (operandA n w q)))
    (hj : ∀ s, exec j s = answer s fun q => vectorResponse (op' (operandA m x q))) (hx : 0 < x) (hm : m * x ≤ 256) (a : Bus) :
    chainResult [i, j] a = some (pack (op' (op (unpack n w a)))) := by
  rw [chainResult_cons (resultOf_of_vector op hi a 0), chainResult_cons (resultOf_pack op' hj hx hm _ 0), chainResult_nil]

theorem resultOf_shr (n : LaneCount) (w : LaneWidth) (imm : BitVec 16) (a : Bus) :
    resultOf (.shr n w imm) a 0 = some (pack (shiftRight (unpack n.count w.bits a) imm.toNat)) :=
  resultOf_of_vector (shiftRight · imm.toNat) (fun _ => rfl) a 0

theorem resultOf_shrw (n : LaneCount) (imm : BitVec 16) (a : Bus) :
    resultOf (.shrw n imm) a 0 = some (pack (shiftRight (laneWiden (unpack n.count 8 a)) imm.toNat)) :=
  resultOf_of_vector (fun v => shiftRight (laneWiden v) imm.toNat) (fun _ => rfl) a 0

theorem resultOf_shlw (n : LaneCount) (imm : BitVec 16) (a : Bus) :
    resultOf (.shlw n imm) a 0 = some (pack (shiftLeft (laneWiden (unpack n.count 8 a)) imm.toNat)) :=
  resultOf_of_vector (fun v => shiftLeft (laneWiden v) imm.toNat) (fun _ => rfl) a 0

/-- Settles O20, by the laws of `shiftRight` and `laneWiden`; `SHLW` is by definition the shift of the widened lanes. -/
theorem shrAddsItsAmountsAndScalarWideningShiftsSplit : Obligations.ShrAddsItsAmountsAndScalarWideningShiftsSplit := by
  refine ⟨fun n w x y a hsum => ⟨_, resultOf_shr n w (x + y) a, ?shrAfterShr⟩,
    fun n x a => ⟨_, resultOf_shlw n x a, ?shlAfterWiden⟩, fun n x a => ⟨_, resultOf_shrw n x a, ?widenAfterShr⟩⟩
  case shrAfterShr =>
    have hadd : (x + y).toNat = x.toNat + y.toNat := BitVec.toNat_add_of_lt (Nat.lt_succ_of_le hsum)
    rw [hadd, ← shiftRight_shiftRight]
    exact chainResult_pair (shiftRight · x.toNat) (shiftRight · y.toNat) (fun _ => rfl) (fun _ => rfl) (width_pos w)
      (width_fits n w) a
  case shlAfterWiden =>
    exact chainResult_pair laneWiden (shiftLeft · x.toNat) (fun _ => rfl) (fun _ => rfl) (by decide) (wide_fits n) a
  case widenAfterShr =>
    rw [← laneWiden_shiftRight]
    exact chainResult_pair (shiftRight · x.toNat) laneWiden (fun _ => rfl) (fun _ => rfl) (by decide) (byte_fits n) a

end Sys2Proof.Machine
end

section
/-! The gather and permutation commands (41_swizzle_rotate.md): each command's word and lanes (R120, R121), the laws of rotations
(R122), and a rotation as a gather (R123). -/

namespace Sys2Proof.Machine

section RotatedLanes

variable {n w : Nat}

/-! ## Rotated lanes -/

theorem rotate_rotate (a : Lanes n w) (k l : Nat) : rotate (rotate a k) l = rotate a (k + l) := by
  funext i
  simp only [rotate_apply]
  have hindex : ((i.val + l) % n + k) % n = (i.val + (k + l)) % n := by
    rw [Nat.mod_add_mod, Nat.add_assoc, Nat.add_comm l]
  exact congrArg a (Fin.ext hindex)

/-- Only the amount modulo N counts (R121). -/
theorem rotate_mod (a : Lanes n w) (k : Nat) : rotate a (k % n) = rotate a k := by
  funext i
  simp only [rotate_apply]
  exact congrArg a (Fin.ext (Nat.add_mod_mod i.val k n))

/-- The lanes in a row, rotated as a list. -/
theorem ofFn_rotate (a : Lanes n w) (k : Nat) : List.ofFn (rotate a k) = (List.ofFn a).rotate k := by
  refine List.ext_getElem (by simp) fun i _ _ => ?_
  simp [List.getElem_rotate, rotate_apply]

/-- A rotation keeps the lanes and changes their order only, which R140 says a reduction may not depend on. -/
theorem ofFn_rotate_perm (a : Lanes n w) (k : Nat) : (List.ofFn (rotate a k)).Perm (List.ofFn a) :=
  ofFn_rotate a k ▸ List.rotate_perm _ _

/-! ## Reductions of rotated lanes (R122) -/

theorem reduceOr_rotate (a : Lanes n w) (k : Nat) : reduceOr (rotate a k) = reduceOr a :=
  have : LeftCommutative (α := BitVec w) (· ||| ·) := ⟨fun x y z => by ac_rfl⟩
  (ofFn_rotate_perm a k).foldr_eq 0

theorem reduceSum_rotate (a : Lanes n w) (k : Nat) : reduceSum (rotate a k) = reduceSum a :=
  ((ofFn_rotate_perm a k).map _).sum_eq

theorem reduceAll_rotate (a : Lanes n 1) (k : Nat) : reduceAll (rotate a k) = reduceAll a :=
  (ofFn_rotate_perm a k).all_eq

theorem reduceAny_rotate (a : Lanes n 1) (k : Nat) : reduceAny (rotate a k) = reduceAny a :=
  (ofFn_rotate_perm a k).any_eq

/-! ## Gathered lanes -/

/-- A gather by rotated indices meets no index out of bounds (R123). -/
theorem swizzle_eq_rotate {x : Nat} (table : Lanes n w) (idx : Lanes n x) (k : Nat)
    (hidx : ∀ i, (idx i).toNat = (i.val + k) % n) : swizzle table idx = rotate table k := by
  funext i
  have hbound : (idx i).toNat < n := hidx i ▸ Nat.mod_lt _ i.pos
  rw [swizzle_apply, dif_pos hbound, rotate_apply]
  exact congrArg table (Fin.ext (hidx i))

/-- The lanes of a gather from bus A by the index vector on bus B (R120). -/
theorem toNat_swizzle_operands {m x : Nat} (q : Request) (i : Fin m) :
    (swizzle (operandA n w q) (operandB m x q) i).toNat
      = if laneOf x q.b i < n then laneOf w q.a (laneOf x q.b i) else 0 := by
  rw [swizzle_apply, ← toNat_operandB (n := m) q i]
  by_cases hbound : (operandB m x q i).toNat < n
  · rw [dif_pos hbound, if_pos hbound, toNat_operandA]
  · rw [dif_neg hbound, if_neg hbound]
    rfl

end RotatedLanes

/-! ## The commands (R120, R121) -/

/-- Settles O21. -/
theorem swizzleLooksUpItsTable : Obligations.SwizzleLooksUpItsTable := by
  intro n w m x s q hq
  refine ⟨hasWord_fieldsOfInstr (.swizzle n w m x), ?_⟩
  exact answersLanes_of_pack (swizzle (operandA n.count w.bits q) (operandB m.count x.bits q)) (width_pos w) (width_fits m w) hq _
    rfl rfl _ fun k => toNat_swizzle_operands q k

/-- Settles O22. -/
theorem rotateMovesLanePositions : Obligations.RotateMovesLanePositions := by
  intro n e imm s q hq
  refine ⟨hasWord_fieldsOfInstr (.rotate n e imm), ?_⟩
  exact answersLanes_of_pack (rotate (operandA n.count e.bits q) imm.toNat) (elem_pos e) (elem_fits n e) hq _ rfl rfl _
    fun k => by rw [rotate_apply, toNat_operandA]

/-! ## Laws of the commands (R122, R123) -/

theorem resultOf_rotate (n : LaneCount) (e : ElemType) (imm : BitVec 16) (a : Bus) :
    resultOf (.rotate n e imm) a 0 = some (pack (rotate (unpack n.count e.bits a) imm.toNat)) :=
  resultOf_of_vector (rotate · imm.toNat) (fun _ => rfl) a 0

theorem resultOf_swizzle (n : LaneCount) (w : LaneWidth) (m : LaneCount) (x : LaneWidth) (a b : Bus) :
    resultOf (.swizzle n w m x) a b = some (pack (swizzle (unpack n.count w.bits a) (unpack m.count x.bits b))) := rfl

/-- The result of a command that answers from the vector on its bus A, whatever the form of its answer. -/
theorem resultOf_of_operandA {i : Instr} {n w : Nat} (f : Lanes n w → Response)
    (hexec : ∀ s, exec i s = answer s fun q => f (operandA n w q)) (a b : Bus) :
    resultOf i a b = some (f (unpack n w a)).r := by
  rw [resultOf, hexec, answer_of_inFlight rfl]
  rfl

/-- A command that answers alike to a vector and to its rotations gives the same result behind a `ROTATE` as without it. -/
theorem exists_result_with_and_without_rotate {i : Instr} {n : LaneCount} {e : ElemType} (f : Lanes n.count e.bits → Response)
    (hexec : ∀ s, exec i s = answer s fun q => f (operandA n.count e.bits q)) (hrotate : ∀ v k, f (rotate v k) = f v)
    (x : BitVec 16) (a : Bus) : ∃ r, resultOf i a 0 = some r ∧ chainResult [.rotate n e x, i] a = some r := by
  refine ⟨_, resultOf_of_operandA f hexec a 0, ?_⟩
  rw [chainResult_cons (resultOf_rotate n e x a), chainResult_cons (resultOf_of_operandA f hexec _ 0), chainResult_nil,
    unpack_pack _ (elem_pos e) (elem_fits n e), hrotate]

/-- Settles O23: two rotations by `rotate_rotate`, and each reduction by its own law of rotated lanes. -/
theorem rotationsComposeAndRorRallRanyRsumIgnoreThem : Obligations.RotationsComposeAndRorRallRanyRsumIgnoreThem := by
  refine ⟨fun n e x y z a hz => ⟨_, resultOf_rotate n e z a, ?twoRotations⟩, fun n e x a => ?rorAndRsum,
    fun n x a => ?rallAndRany⟩
  case twoRotations =>
    rw [hz, rotate_mod, ← rotate_rotate]
    exact chainResult_pair (rotate · x.toNat) (rotate · y.toNat) (fun _ => rfl) (fun _ => rfl) (elem_pos e) (elem_fits n e) a
  case rorAndRsum =>
    obtain ⟨r, hror, hrotateRor⟩ := exists_result_with_and_without_rotate (i := .ror n e) (e := e)
      (fun v => scalarResponse (reduceOr v).toNat) (fun _ => rfl) (fun v k => by rw [reduceOr_rotate]) x a
    obtain ⟨r', hrsum, hrotateRsum⟩ := exists_result_with_and_without_rotate (i := .rsum n e) (e := e)
      (fun v => scalarResponse (reduceSum v % 2 ^ 32)) (fun _ => rfl) (fun v k => by rw [reduceSum_rotate]) x a
    exact ⟨r, r', hror, hrotateRor, hrsum, hrotateRsum⟩
  case rallAndRany =>
    obtain ⟨r, hrall, hrotateRall⟩ := exists_result_with_and_without_rotate (i := .rall n) (e := .bool)
      (fun v => boolResponse (reduceAll v)) (fun _ => rfl) (fun v k => congrArg boolResponse (reduceAll_rotate v k)) x a
    obtain ⟨r', hrany, hrotateRany⟩ := exists_result_with_and_without_rotate (i := .rany n) (e := .bool)
      (fun v => boolResponse (reduceAny v)) (fun _ => rfl) (fun v k => congrArg boolResponse (reduceAny_rotate v k)) x a
    exact ⟨r, r', hrall, hrotateRall, hrany, hrotateRany⟩

/-- The law of R123 with the lane width named on both sides: by `e` for `ROTATE` and by `w` for `SWIZZLE`. -/
theorem exists_result_of_rotate_and_swizzle {n : LaneCount} {e : ElemType} {w x : LaneWidth} (he : e.bits = w.bits)
    {imm : BitVec 16} {idx : Bus} (hidx : ∀ k, k < n.count → laneOf x.bits idx k = (k + imm.toNat) % n.count) (a : Bus) :
    ∃ r, resultOf (.rotate n e imm) a 0 = some r ∧ resultOf (.swizzle n w n x) a idx = some r := by
  have hlanes (i : Fin n.count) : (unpack n.count x.bits idx i).toNat = (i.val + imm.toNat) % n.count := by
    rw [toNat_unpack, hidx i i.isLt]
  refine ⟨_, resultOf_rotate n e imm a, ?_⟩
  rw [resultOf_swizzle, swizzle_eq_rotate _ _ imm.toNat hlanes, he]

/-- Settles O24, for tables of either integer type. -/
theorem rotateIsASwizzleByRotatedIndices : Obligations.RotateIsASwizzleByRotatedIndices := by
  intro n w x imm a idx hidx
  cases w with
  | u8 => exact exists_result_of_rotate_and_swizzle rfl hidx a
  | u16 => exact exists_result_of_rotate_and_swizzle rfl hidx a

end Sys2Proof.Machine
end

section
/-! The compare commands (42_compare.md; `CMPGTU` of 44_elementwise.md): a compared lane as a number, and each command's word and
lanes (R130, R179). -/

namespace Sys2Proof.Machine

/-! ## Compared lanes -/

/-- A boolean lane is written 0 or 1 (R13), so the condition that makes it 1 gives it as a number. -/
theorem toNat_bool_eq_ite {x : BitVec 1} {p : Prop} [Decidable p] (h : x = 1 ↔ p) : x.toNat = if p then 1 else 0 := by
  by_cases hp : p
  · rw [if_pos hp, h.mpr hp]
    rfl
  · rw [if_neg hp, (BitVec.eq_zero_or_eq_one x).resolve_right fun hx => hp (h.mp hx)]
    rfl

/-- The whole scalar is compared: a `u8` lane equals no scalar above 255 (R130). -/
theorem toNat_compareEq {n w : Nat} (a : Lanes n w) (s : BitVec 16) (i : Fin n) :
    (compareEq a s i).toNat = if (a i).toNat = s.toNat then 1 else 0 :=
  toNat_bool_eq_ite (compareEq_eq_one a s i)

/-- The whole scalar is compared: no `u8` lane is greater than a scalar above 255 (R179). -/
theorem toNat_compareGt {n w : Nat} (a : Lanes n w) (s : BitVec 16) (i : Fin n) :
    (compareGt a s i).toNat = if s.toNat < (a i).toNat then 1 else 0 :=
  toNat_bool_eq_ite (compareGt_eq_one a s i)

/-! ## The commands (R130, R179) -/

/-- Settles O25. -/
theorem comparisonsWithAScalar : Obligations.ComparisonsWithAScalar := by
  intro n w imm s q hq
  refine ⟨hasWord_fieldsOfInstr (.cmpeq n w imm), hasWord_fieldsOfInstr (.cmpgtu n w imm), ?cmpeq, ?cmpgtu⟩
  case cmpeq =>
    exact answersLanes_of_pack (compareEq (operandA n.count w.bits q) imm) (by decide) (bool_fits n) hq _ rfl rfl _
      fun k => by rw [toNat_compareEq, toNat_operandA]
  case cmpgtu =>
    exact answersLanes_of_pack (compareGt (operandA n.count w.bits q) imm) (by decide) (bool_fits n) hq _ rfl rfl _
      fun k => by rw [toNat_compareGt, toNat_operandA]

end Sys2Proof.Machine
end

section
/-! The reduction commands (43_reduce.md): the bits of a boolean operand and of its bitmask as numbers (R145), and each command's
word and scalar (R141 to R146). -/

namespace Sys2Proof.Machine

/-! ## Boolean lanes as bits of their bus -/

/-- A boolean lane stands in one bit (R41). -/
theorem laneOf_one (bus : Bus) (k : Nat) : laneOf 1 bus k = bus.toNat / 2 ^ k % 2 := by
  rw [laneOf, Nat.one_mul, Nat.pow_one]

/-- A lane that is not true is written 0 (R13). -/
theorem laneOf_one_ne_one_iff (bus : Bus) (k : Nat) : laneOf 1 bus k ≠ 1 ↔ laneOf 1 bus k = 0 := by
  rw [laneOf_one]
  omega

theorem unpack_eq_one_iff {n : Nat} (bus : Bus) (i : Fin n) : unpack n 1 bus i = 1 ↔ laneOf 1 bus i = 1 := by
  rw [← toNat_unpack (n := n) bus i, ← BitVec.toNat_inj]
  rfl

theorem unpack_ne_one_iff {n : Nat} (bus : Bus) (i : Fin n) : unpack n 1 bus i ≠ 1 ↔ laneOf 1 bus i = 0 := by
  rw [← laneOf_one_ne_one_iff, ne_eq, unpack_eq_one_iff]

section BooleanVectors

variable {n : Nat}

/-! ## The bitmask (R145) -/

theorem maskOf_unpack (bus : Bus) :
    maskOf (unpack n 1 bus) = ∑ k ∈ Finset.range n, if laneOf 1 bus k = 1 then 2 ^ k else 0 := by
  rw [maskOf_eq, ← Fin.sum_univ_eq_sum_range (fun k => if laneOf 1 bus k = 1 then 2 ^ k else 0)]
  simp only [unpack_eq_one_iff]

/-- The true lanes are the binary digits of the bus, so their powers of two add up to its low bits (R145). -/
theorem sum_true_lanes_eq_mod (bus : Bus) (n : Nat) :
    (∑ k ∈ Finset.range n, if laneOf 1 bus k = 1 then 2 ^ k else 0) = bus.toNat % 2 ^ n := by
  induction n with
  | zero => rw [Finset.sum_range_zero, Nat.pow_zero, Nat.mod_one]
  | succ n ih =>
    rw [Finset.sum_range_succ, ih, Nat.mod_pow_succ, ← laneOf_one]
    by_cases hlane : laneOf 1 bus n = 1
    · rw [if_pos hlane, hlane, Nat.mul_one]
    · rw [if_neg hlane, (laneOf_one_ne_one_iff bus n).mp hlane, Nat.mul_zero]

theorem maskOf_unpack_eq_mod (bus : Bus) : maskOf (unpack n 1 bus) = bus.toNat % 2 ^ n :=
  (maskOf_unpack bus).trans (sum_true_lanes_eq_mod bus n)

/-- Bit i of the bitmask is lane i. -/
theorem testBit_maskOf_unpack (bus : Bus) (i : Fin n) :
    (maskOf (unpack n 1 bus)).testBit i = true ↔ unpack n 1 bus i = 1 := by
  rw [maskOf_unpack_eq_mod, Nat.testBit_mod_two_pow, decide_eq_true i.isLt, Bool.true_and, unpack_eq_one_iff, laneOf_one,
    Nat.testBit_eq_decide_div_mod_eq, decide_eq_true_iff]

theorem maskOf_eq_zero_iff (a : Lanes n 1) : maskOf a = 0 ↔ ∀ i, a i ≠ 1 := by
  simp [maskOf_eq]

/-! ## The first true lane (R146) -/

theorem exists_findFirstSet_eq {a : Lanes n 1} (h : ∃ i, a i = 1) : ∃ k : Fin n, findFirstSet a = k := by
  obtain ⟨i, hi⟩ := h
  have hlt : findFirstSet a < (List.ofFn a).length :=
    List.findIdx_lt_length_of_exists ⟨a i, List.mem_ofFn.mpr ⟨i, rfl⟩, by simp [hi]⟩
  rw [List.length_ofFn] at hlt
  exact ⟨⟨findFirstSet a, hlt⟩, rfl⟩

/-- The first true lane is the count of trailing zeros of any word that has the lanes for its bits (R16). -/
theorem findFirstSet_eq_tzcnt {a : Lanes n 1} {m : BitVec n} (h : ∀ i : Fin n, m.getLsbD i = true ↔ a i = 1) :
    findFirstSet a = tzcnt m := by
  have hlanes : List.ofFn a = (List.finRange n).map a := List.ofFn_eq_map
  rw [findFirstSet, tzcnt, hlanes, ← List.map_coe_finRange_eq_range, List.findIdx_map, List.findIdx_map]
  congr 1
  funext i
  rw [Function.comp_apply, Function.comp_apply, Bool.eq_iff_iff, h i, beq_iff_eq]

end BooleanVectors

/-- The lowest set bit of a number, said by division (R16). -/
theorem two_pow_dvd_and_odd_of_lowest_bit {x k : Nat} (hset : x.testBit k = true) (hclear : ∀ j, j < k → x.testBit j = false) :
    2 ^ k ∣ x ∧ x / 2 ^ k % 2 = 1 := by
  constructor
  · refine Nat.dvd_of_mod_eq_zero (Nat.zero_of_testBit_eq_false fun j => ?_)
    rw [Nat.testBit_mod_two_pow]
    by_cases hj : j < k
    · rw [hclear j hj, Bool.and_false]
    · rw [decide_eq_false hj, Bool.false_and]
  · rwa [Nat.testBit_eq_decide_div_mod_eq, decide_eq_true_iff] at hset

/-! ## Sums of lanes (R144) -/

theorem reduceSum_unpack {n w : Nat} (bus : Bus) :
    reduceSum (unpack n w bus) = ∑ k ∈ Finset.range n, laneOf w bus k := by
  rw [reduceSum_eq, ← Fin.sum_univ_eq_sum_range (laneOf w bus)]
  simp only [toNat_unpack]

theorem laneOf_elem_le (e : ElemType) (bus : Bus) (k : Nat) : laneOf e.bits bus k ≤ 65535 := by
  have hlt : laneOf e.bits bus k < 2 ^ e.bits := Nat.mod_lt _ (Nat.two_pow_pos _)
  have hwidth : 2 ^ e.bits ≤ 2 ^ 16 := by cases e <;> decide
  omega

/-- At most 16 lanes of at most 16 bits (D11). -/
theorem sum_laneOf_le (n : LaneCount) (e : ElemType) (bus : Bus) :
    ∑ k ∈ Finset.range n.count, laneOf e.bits bus k ≤ 16 * 65535 := by
  have hcount : n.count ≤ 16 := by cases n <;> decide
  calc ∑ k ∈ Finset.range n.count, laneOf e.bits bus k
      ≤ (Finset.range n.count).card • 65535 := Finset.sum_le_card_nsmul _ _ _ fun k _ => laneOf_elem_le e bus k
    _ = n.count * 65535 := by rw [Finset.card_range, smul_eq_mul]
    _ ≤ 16 * 65535 := Nat.mul_le_mul_right _ hcount

/-! ## The commands (R141 to R146) -/

/-- R holds a number of no more bits than its own exactly (R140). -/
theorem toNat_scalarResponse_r {x : Nat} (hx : x < 2 ^ 256) : (scalarResponse x).r.toNat = x := by
  rw [scalarResponse_eq, BitVec.toNat_ofNat, Nat.mod_eq_of_lt hx]

/-- R holds the bitmask of any shape. -/
theorem maskOf_lt_bus (n : LaneCount) (a : Lanes n.count 1) : maskOf a < 2 ^ 256 :=
  Nat.lt_of_lt_of_le (maskOf_lt a) (Nat.pow_le_pow_right Nat.two_pos (Nat.mul_one n.count ▸ bool_fits n))

/-- R holds the lane number or sentinel of any shape. -/
theorem findFirstSet_lt_bus (n : LaneCount) (a : Lanes n.count 1) : findFirstSet a < 2 ^ 256 :=
  Nat.lt_trans (findFirstSet_lt n a) (by decide)

/-- A command that answers with a truth value answers 1 or 0 by the condition that makes it true (R142, R143). -/
theorem answersScalar_of_bool {i : Instr} {s : State} {q : Request} {b : Bool} {p : Prop} [Decidable p] (hq : s.inFlight = some q)
    (f : Request → Response) (h : exec i s = answer s f) (hf : f q = boolResponse b) (hb : b = true ↔ p) :
    AnswersScalar i s (if p then 1 else 0) := by
  have hvalue : b.toNat = if p then 1 else 0 := by simp [← hb, Bool.toNat, Bool.cond_eq_ite]
  exact hvalue ▸ answersScalar_of_eq b.toNat (Nat.lt_of_le_of_lt b.toNat_le (by decide)) hq f h hf

/-- Settles O26. -/
theorem rorHasTheBitsOfItsLanes : Obligations.RorHasTheBitsOfItsLanes := by
  intro n e s q hq
  have hlt : (reduceOr (operandA n.count e.bits q)).toNat < 2 ^ e.bits := BitVec.isLt _
  have hbus : 2 ^ e.bits ≤ 2 ^ 256 := by cases e <;> decide
  obtain ⟨r, hanswers, hr⟩ : AnswersScalar (.ror n e) s (reduceOr (operandA n.count e.bits q)).toNat :=
    answersScalar_of_eq _ (Nat.lt_of_lt_of_le hlt hbus) hq _ rfl rfl
  refine ⟨hasWord_fieldsOfInstr (.ror n e), r, hanswers, hr ▸ hlt, fun j => ?bits⟩
  rw [hr, BitVec.testBit_toNat, getLsbD_reduceOr, Fin.exists_iff]
  simp only [← BitVec.testBit_toNat, toNat_operandA, exists_prop]

/-- Settles O27. -/
theorem rallAndRanyReduceBooleans : Obligations.RallAndRanyReduceBooleans := by
  intro n s q hq
  refine ⟨hasWord_fieldsOfInstr (.rall n), hasWord_fieldsOfInstr (.rany n), ?rall, ?rany⟩
  case rall =>
    refine answersScalar_of_bool hq _ rfl rfl ?_
    rw [reduceAll_eq_true, Fin.forall_iff]
    simp only [operandA, unpack_eq_one_iff]
  case rany =>
    rw [← ite_not]
    refine answersScalar_of_bool hq _ rfl rfl ?_
    rw [reduceAny_eq_true, ← not_forall_not, Fin.forall_iff]
    simp only [operandA, ← ne_eq, unpack_ne_one_iff]

/-- Settles O28: 32 bits hold the sum, so the command does not reduce it. -/
theorem rsumIsTheExactSum : Obligations.RsumIsTheExactSum := by
  intro n e s q hq
  have hle := sum_laneOf_le n e q.a
  have hexact : reduceSum (operandA n.count e.bits q) % 2 ^ 32 = ∑ k ∈ Finset.range n.count, laneOf e.bits q.a k := by
    rw [operandA, reduceSum_unpack]
    exact Nat.mod_eq_of_lt (Nat.lt_of_le_of_lt hle (by decide))
  refine ⟨hasWord_fieldsOfInstr (.rsum n e), ?_, hle⟩
  exact answersScalar_of_eq _ (Nat.lt_of_le_of_lt hle (by decide)) hq _ rfl (congrArg scalarResponse hexact)

/-- Settles O29. -/
theorem maskPacksBooleans : Obligations.MaskPacksBooleans := by
  intro n s q hq
  refine ⟨hasWord_fieldsOfInstr (.mask n), ?_⟩
  rw [← maskOf_unpack]
  exact answersScalar_of_eq _ (maskOf_lt_bus n _) hq _ rfl rfl

theorem answersScalar_ffs (n : LaneCount) {s : State} {q : Request} (hq : s.inFlight = some q) :
    AnswersScalar (.ffs n) s (findFirstSet (unpack n.count 1 q.a)) :=
  answersScalar_of_eq _ (findFirstSet_lt_bus n _) hq _ rfl rfl

/-- The result bus of `MASK` and its number (R145). -/
theorem exists_resultOf_mask (n : LaneCount) (a : Bus) :
    ∃ m, resultOf (.mask n) a 0 = some m ∧ m.toNat = maskOf (unpack n.count 1 a) :=
  ⟨_, resultOf_of_operandA (fun v => scalarResponse (maskOf v)) (fun _ => rfl) a 0,
    toNat_scalarResponse_r (maskOf_lt_bus n _)⟩

/-- The result bus of `FFS` and its number (R146). -/
theorem exists_resultOf_ffs (n : LaneCount) (a : Bus) :
    ∃ f, resultOf (.ffs n) a 0 = some f ∧ f.toNat = findFirstSet (unpack n.count 1 a) :=
  ⟨_, resultOf_of_operandA (fun v => scalarResponse (findFirstSet v)) (fun _ => rfl) a 0,
    toNat_scalarResponse_r (findFirstSet_lt_bus n _)⟩

/-- Settles O30. -/
theorem ffsIsTheFirstTrueLane : Obligations.FfsIsTheFirstTrueLane := by
  intro n s q hq
  have hffs := answersScalar_ffs n hq
  refine ⟨hasWord_fieldsOfInstr (.ffs n), fun k hk hset hclear => ?first, fun hnone => ?sentinel, ?trailingZeros⟩
  case first =>
    have hfirst : findFirstSet (unpack n.count 1 q.a) = k :=
      (findFirstSet_eq_iff _ ⟨k, hk⟩).mpr
        ⟨(unpack_eq_one_iff q.a _).mpr hset, fun j hj => (unpack_ne_one_iff q.a j).mpr (hclear j hj)⟩
    rwa [hfirst] at hffs
  case sentinel =>
    rwa [findFirstSet_of_none _ fun i => (unpack_ne_one_iff q.a i).mpr (hnone i i.isLt)] at hffs
  case trailingZeros =>
    obtain ⟨m, hmask, hm⟩ := exists_resultOf_mask n q.a
    have hbits (i : Fin n.count) : (m.setWidth n.count).getLsbD i = true ↔ unpack n.count 1 q.a i = 1 := by
      rw [BitVec.getLsbD_setWidth, decide_eq_true i.isLt, Bool.true_and, ← BitVec.testBit_toNat, hm, testBit_maskOf_unpack]
    exact ⟨m, hmask, findFirstSet_eq_tzcnt hbits ▸ hffs⟩

/-- Settles O31: the bits of the mask are the lanes, so the first true lane is its lowest set bit. -/
theorem ffsCountsTheTrailingZerosOfMask : Obligations.FfsCountsTheTrailingZerosOfMask := by
  intro n a
  obtain ⟨m, hmask, hm⟩ := exists_resultOf_mask n a
  obtain ⟨f, hffs, hf⟩ := exists_resultOf_ffs n a
  rw [← maskOf_unpack_eq_mod]
  refine ⟨m, f, hmask, hffs, hm, fun hzero => ?zero, fun hnonzero => ?nonzero⟩
  case zero =>
    rw [hm, maskOf_eq_zero_iff] at hzero
    exact hf.trans (findFirstSet_of_none _ hzero)
  case nonzero =>
    rw [hm, ne_eq, maskOf_eq_zero_iff, not_forall_not] at hnonzero
    obtain ⟨k, hk⟩ := exists_findFirstSet_eq hnonzero
    obtain ⟨hset, hclear⟩ := (findFirstSet_eq_iff _ k).mp hk
    rw [hm, hf, hk]
    refine two_pow_dvd_and_odd_of_lowest_bit ((testBit_maskOf_unpack a k).mpr hset) fun j hj => ?_
    exact Bool.eq_false_iff.mpr fun hbit => hclear ⟨j, hj.trans k.isLt⟩ hj ((testBit_maskOf_unpack a _).mp hbit)

end Sys2Proof.Machine
end

section
/-! The elementwise helper commands (44_elementwise.md): each command's word and lanes (R170 to R182), and the laws of R183. -/

namespace Sys2Proof.Machine

section ElementwiseLanes

variable {n w : Nat}

/-! ## Lanes as numbers -/

/-- A difference as R161 writes it: 2^W is added first, so nothing is borrowed from below 0. -/
theorem toNat_laneSub_eq_add_sub (a b : Lanes n w) (i : Fin n) :
    (laneSub a b i).toNat = ((a i).toNat + 2 ^ w - (b i).toNat) % 2 ^ w := by
  rw [toNat_laneSub, Nat.add_sub_assoc (b i).isLt.le]

/-- The same for a scalar, which is a lane that does not vary (R172). -/
theorem toNat_laneSubScalar_eq_add_sub (a : Lanes n w) (s : BitVec w) (i : Fin n) :
    (laneSubScalar a s i).toNat = ((a i).toNat + 2 ^ w - s.toNat) % 2 ^ w :=
  toNat_laneSub_eq_add_sub a (fun _ => s) i

theorem toNat_laneAnd (a b : Lanes n w) (i : Fin n) : (laneAnd a b i).toNat = (a i).toNat &&& (b i).toNat := by
  rw [laneAnd_apply, BitVec.toNat_and]

theorem toNat_laneAndScalar (a : Lanes n w) (s : BitVec w) (i : Fin n) :
    (laneAndScalar a s i).toNat = (a i).toNat &&& s.toNat := by
  rw [laneAndScalar_apply, BitVec.toNat_and]

theorem toNat_laneOr (a b : Lanes n w) (i : Fin n) : (laneOr a b i).toNat = (a i).toNat ||| (b i).toNat := by
  rw [laneOr_apply, BitVec.toNat_or]

/-! ## Laws of the lane operations (R183) -/

/-- What wraps on the way up wraps back on the way down. -/
theorem laneSub_laneAdd (a b : Lanes n w) : laneSub (laneAdd a b) b = a := by
  funext i
  exact BitVec.add_sub_cancel (a i) (b i)

/-- De Morgan's law holds bit by bit, hence for lanes of every width. -/
theorem laneNot_laneOr (a b : Lanes n w) : laneNot (laneOr a b) = laneAnd (laneNot a) (laneNot b) := by
  funext i
  exact BitVec.not_or

end ElementwiseLanes

/-! ## The commands (R170 to R182) -/

/-- Settles O32. -/
theorem addAndSubWrap : Obligations.AddAndSubWrap := by
  intro n w s q hq
  refine ⟨hasWord_fieldsOfInstr (.add n w), hasWord_fieldsOfInstr (.sub n w), ?add, ?sub⟩
  case add =>
    exact answersLanes_of_pack (laneAdd (operandA n.count w.bits q) (operandB n.count w.bits q)) (width_pos w) (width_fits n w)
      hq _ rfl rfl _ fun k => by rw [toNat_laneAdd, toNat_operandA, toNat_operandB]
  case sub =>
    exact answersLanes_of_pack (laneSub (operandA n.count w.bits q) (operandB n.count w.bits q)) (width_pos w) (width_fits n w)
      hq _ rfl rfl _ fun k => by rw [toNat_laneSub_eq_add_sub, toNat_operandA, toNat_operandB]

/-- Settles O33: the scalar is reduced to the lane width before the lanes meet it. -/
theorem scalarArithmeticReducesTheScalar : Obligations.ScalarArithmeticReducesTheScalar := by
  intro n w imm s q hq
  refine ⟨hasWord_fieldsOfInstr (.subs n w imm), hasWord_fieldsOfInstr (.muls n w imm), hasWord_fieldsOfInstr (.ands n w imm),
    ?subs, ?muls, ?ands⟩
  case subs =>
    exact answersLanes_of_pack (laneSubScalar (operandA n.count w.bits q) (scalarOf w.bits imm)) (width_pos w) (width_fits n w)
      hq _ rfl rfl _ fun k => by rw [toNat_laneSubScalar_eq_add_sub, toNat_operandA, toNat_scalarOf]
  case muls =>
    exact answersLanes_of_pack (laneMulScalar (operandA n.count w.bits q) (scalarOf w.bits imm)) (width_pos w) (width_fits n w)
      hq _ rfl rfl _ fun k => by rw [toNat_laneMulScalar, toNat_operandA, toNat_scalarOf]
  case ands =>
    exact answersLanes_of_pack (laneAndScalar (operandA n.count w.bits q) (scalarOf w.bits imm)) (width_pos w) (width_fits n w)
      hq _ rfl rfl _ fun k => by rw [toNat_laneAndScalar, toNat_operandA, toNat_scalarOf]

/-- Settles O34. -/
theorem andAndOrAreBitwise : Obligations.AndAndOrAreBitwise := by
  intro n e s q hq
  refine ⟨hasWord_fieldsOfInstr (.and n e), hasWord_fieldsOfInstr (.or n e), ?and, ?or⟩
  case and =>
    exact answersLanes_of_pack (laneAnd (operandA n.count e.bits q) (operandB n.count e.bits q)) (elem_pos e) (elem_fits n e)
      hq _ rfl rfl _ fun k => by rw [toNat_laneAnd, toNat_operandA, toNat_operandB]
  case or =>
    exact answersLanes_of_pack (laneOr (operandA n.count e.bits q) (operandB n.count e.bits q)) (elem_pos e) (elem_fits n e)
      hq _ rfl rfl _ fun k => by rw [toNat_laneOr, toNat_operandA, toNat_operandB]

/-- Settles O35: the lanes are complemented before they are packed, so the bits of R above them stay 0. -/
theorem notComplementsItsLanes : Obligations.NotComplementsItsLanes := by
  intro n e s q hq
  refine ⟨hasWord_fieldsOfInstr (.not n e), ?_⟩
  exact answersLanes_of_pack (laneNot (operandA n.count e.bits q)) (elem_pos e) (elem_fits n e) hq _ rfl rfl _
    fun k => by rw [toNat_laneNot, toNat_operandA]

/-- Settles O36. -/
theorem conversionsBetweenLaneTypes : Obligations.ConversionsBetweenLaneTypes := by
  intro n s q hq
  refine ⟨hasWord_fieldsOfInstr (.btou n), hasWord_fieldsOfInstr (.widen n), hasWord_fieldsOfInstr (.narrow n), ?btou, ?widen,
    ?narrow⟩
  case btou =>
    exact answersLanes_of_pack (boolToU8 (operandA n.count 1 q)) (by decide) (byte_fits n) hq _ rfl rfl _
      fun k => by simp only [toNat_boolToU8, operandA, unpack_eq_one_iff]
  case widen =>
    exact answersLanes_of_pack (laneWiden (operandA n.count 8 q)) (by decide) (wide_fits n) hq _ rfl rfl _
      fun k => by rw [toNat_laneWiden, toNat_operandA]
  case narrow =>
    exact answersLanes_of_pack (laneNarrow (operandA n.count 16 q)) (by decide) (byte_fits n) hq _ rfl rfl _
      fun k => by rw [toNat_laneNarrow, toNat_operandA]

/-! ## Laws of the commands (R183) -/

theorem resultOf_add (n : LaneCount) (w : LaneWidth) (a b : Bus) :
    resultOf (.add n w) a b = some (pack (laneAdd (unpack n.count w.bits a) (unpack n.count w.bits b))) := rfl

theorem resultOf_sub (n : LaneCount) (w : LaneWidth) (a b : Bus) :
    resultOf (.sub n w) a b = some (pack (laneSub (unpack n.count w.bits a) (unpack n.count w.bits b))) := rfl

theorem resultOf_and (n : LaneCount) (e : ElemType) (a b : Bus) :
    resultOf (.and n e) a b = some (pack (laneAnd (unpack n.count e.bits a) (unpack n.count e.bits b))) := rfl

theorem resultOf_or (n : LaneCount) (e : ElemType) (a b : Bus) :
    resultOf (.or n e) a b = some (pack (laneOr (unpack n.count e.bits a) (unpack n.count e.bits b))) := rfl

theorem resultOf_not (n : LaneCount) (e : ElemType) (a : Bus) :
    resultOf (.not n e) a 0 = some (pack (laneNot (unpack n.count e.bits a))) :=
  resultOf_of_vector laneNot (fun _ => rfl) a 0

/-- A `SUB` behind the `ADD` of the same lanes gives the operand of `ADD` back, up to the bits above its lanes (R42). -/
theorem resultOf_sub_add (n : LaneCount) (w : LaneWidth) (a b : Bus) :
    resultOf (.sub n w) (pack (laneAdd (unpack n.count w.bits a) (unpack n.count w.bits b))) b
      = some (pack (unpack n.count w.bits a)) := by
  rw [resultOf_sub, unpack_pack _ (width_pos w) (width_fits n w), laneSub_laneAdd]

/-- `NOT` of an `OR` and `AND` of the two `NOT`s have the same result, on integer lanes as on booleans. -/
theorem resultOf_not_or_eq_and_not (n : LaneCount) (e : ElemType) (a b : Bus) :
    resultOf (.not n e) (pack (laneOr (unpack n.count e.bits a) (unpack n.count e.bits b))) 0
      = resultOf (.and n e) (pack (laneNot (unpack n.count e.bits a))) (pack (laneNot (unpack n.count e.bits b))) := by
  rw [resultOf_not, resultOf_and]
  simp only [unpack_pack _ (elem_pos e) (elem_fits n e), laneNot_laneOr]

/-- Settles O37, by the laws of `laneSub` and `laneNot`; the bits of `a` above its lanes do not come back (R42). -/
theorem elementwiseLaws : Obligations.ElementwiseLaws := by
  refine ⟨fun n w a b => ?subUndoesAdd, fun n a b => ?deMorgan⟩
  case subUndoesAdd =>
    exact ⟨_, _, resultOf_add n w a b, resultOf_sub_add n w a b, toNat_pack_unpack _ _ (width_pos w) a⟩
  case deMorgan =>
    have hnot := resultOf_not n .bool (pack (laneOr (unpack n.count 1 a) (unpack n.count 1 b)))
    exact ⟨_, _, _, _, resultOf_or n .bool a b, hnot, resultOf_not n .bool a, resultOf_not n .bool b,
      (resultOf_not_or_eq_and_not n .bool a b).symm.trans hnot⟩

end Sys2Proof.Machine
end

section
/-! The base64 commands (45_base64.md): the result of `B64CHUNK` on R, the lane program P1, and the buffer decoder chunk by
chunk (R200 to R224). -/

namespace Sys2Proof.Machine

/-! ## The result of `B64CHUNK` on R (R214) -/

/-- A command that answers by a function of the request in flight leaves that function's response pending. -/
theorem answers_of_inFlight {i : Instr} {s : State} {q : Request} (f : Request → Response) (hexec : exec i s = answer s f)
    (hq : s.inFlight = some q) : Answers i s (f q) :=
  hexec.trans (answer_of_inFlight hq f)

theorem answers_b64chunk {s : State} {q : Request} (hq : s.inFlight = some q) :
    Answers .b64chunk s
      { status := .ok, r := chunkResult (b64Out (operandA 4 8 q)) (b64Valid (operandA 4 8 q)), payload := [] } :=
  answers_of_inFlight (fun q => okResponse (chunkResult (b64Out (operandA 4 8 q)) (b64Valid (operandA 4 8 q)))) rfl hq

theorem resultOf_b64chunk (a b : Bus) :
    resultOf .b64chunk a b = some (chunkResult (b64Out (unpack 4 8 a)) (b64Valid (unpack 4 8 a))) :=
  resultOf_of_operandA (fun v => okResponse (chunkResult (b64Out v) (b64Valid v))) (fun _ => rfl) a b

/-- Above its three bytes R holds only `valid`, in bit 32. -/
theorem toNat_chunkResult_div (out : Lanes 3 8) (valid : Bool) :
    (chunkResult out valid).toNat / 2 ^ 24 = 2 ^ 8 * valid.toNat := by
  have h0 := (out 0).isLt
  have h1 := (out 1).isLt
  have h2 := (out 2).isLt
  rw [toNat_chunkResult]
  omega

theorem toNat_chunkResult_valid (out : Lanes 3 8) (valid : Bool) : (chunkResult out valid).toNat / 2 ^ 32 = valid.toNat := by
  rw [show 2 ^ 32 = 2 ^ 24 * 2 ^ 8 by rfl, ← Nat.div_div_eq_div_mul, toNat_chunkResult_div]
  exact Nat.mul_div_cancel_left _ (by decide)

/-- The low 24 bits of R are the three bytes, byte 0 first. -/
theorem unpack_chunkResult (out : Lanes 3 8) (valid : Bool) : unpack 3 8 (chunkResult out valid) = out := by
  have h0 := (out 0).isLt
  have h1 := (out 1).isLt
  have h2 := (out 2).isLt
  have hbyte (k : Fin 3) : (chunkResult out valid).toNat / 2 ^ (8 * k.val) % 2 ^ 8 = (out k).toNat := by
    rw [toNat_chunkResult]
    match k with
    | 0 => show _ / 2 ^ 0 % _ = _; omega
    | 1 => show _ / 2 ^ 8 % _ = _; omega
    | 2 => show _ / 2 ^ 16 % _ = _; omega
  funext k
  exact BitVec.eq_of_toNat_eq ((toNat_unpack _ k).trans (hbyte k))

theorem laneOf_chunkResult (out : Lanes 3 8) (valid : Bool) (k : Fin 3) :
    laneOf 8 (chunkResult out valid) k = (out k).toNat := by
  rw [← toNat_unpack, unpack_chunkResult]

/-! ## B64CHUNK by characters (R207, R211, R214) -/

/-- The lanes of a vector operand, as claims write them. -/
theorem forall_operandA_iff {n w : Nat} (q : Request) (p : Nat → Prop) :
    (∀ i, p (operandA n w q i).toNat) ↔ ∀ k ∈ List.range n, p (laneOf w q.a k) := by
  simp only [toNat_operandA, Fin.forall_iff, List.mem_range]

/-- A chunk is valid exactly when every character's mask is 0 (R207). -/
theorem b64Valid_eq_true_iff_maskOfChar (ascii : Lanes 4 8) :
    b64Valid ascii = true ↔ ∀ i, maskOfChar (ascii i).toNat = 0 := by
  simp only [b64Valid_eq_true_iff, maskOfChar_eq_zero_iff]

theorem b64Valid_eq_true_iff_ne_none (ascii : Lanes 4 8) :
    b64Valid ascii = true ↔ ∀ i, alphabetValue (ascii i).toNat ≠ none := by
  simp only [b64Valid_eq_true_iff, Option.isSome_iff_ne_none]

theorem toNat_bool_of_iff {b : Bool} {p : Prop} [Decidable p] (h : b = true ↔ p) : b.toNat = if p then 1 else 0 := by
  rw [← toNat_ofBool]
  refine toNat_bool_eq_ite (Iff.trans ?_ h)
  cases b <;> decide

/-- The three bytes on R, garbage bits included (R215). -/
theorem chunkBytes_eq (ascii : Lanes 4 8) :
    (b64Out ascii 0).toNat + 2 ^ 8 * (b64Out ascii 1).toNat + 2 ^ 16 * (b64Out ascii 2).toNat
      = chunkBytes (sextetOf (ascii 0).toNat) (sextetOf (ascii 1).toNat) (sextetOf (ascii 2).toNat) (sextetOf (ascii 3).toNat) := by
  obtain ⟨h0, h1, h2⟩ := toNat_b64Out ascii
  simp only [h0, h1, h2, toNat_b64Sextets, chunkBytes]

/-- Settles O40: the bytes by `chunkBytes_eq`, the valid bit by the masks. -/
theorem chunkAnswersItsBytesAndValidity : Obligations.ChunkAnswersItsBytesAndValidity := by
  intro s q hq
  refine ⟨hasWord_fieldsOfInstr .b64chunk, _, answers_b64chunk hq, ?_⟩
  have hvalid := (b64Valid_eq_true_iff_maskOfChar (operandA 4 8 q)).trans (forall_operandA_iff q (maskOfChar · = 0))
  rw [toNat_chunkResult, chunkBytes_eq, toNat_bool_of_iff hvalid]
  simp only [toNat_operandA]
  rfl

/-- Settles O41. -/
theorem chunkIsValidExactlyForTheAlphabet : Obligations.ChunkIsValidExactlyForTheAlphabet := by
  intro s q hq
  refine ⟨_, answers_b64chunk hq, ?_⟩
  rw [toNat_chunkResult_valid]
  exact toNat_bool_of_iff ((b64Valid_eq_true_iff_ne_none _).trans (forall_operandA_iff q (alphabetValue · ≠ none)))

/-- Settles O42: the values of the characters are their sextets, which are below 64. -/
theorem validChunkGivesTheBytesOfItsNumber : Obligations.ValidChunkGivesTheBytesOfItsNumber := by
  intro s q v hq hv
  have hchar (i : Fin 4) : alphabetValue (operandA 4 8 q i).toNat = some (v i) := by
    rw [toNat_operandA]
    exact hv i i.isLt
  have hsextet (i : Fin 4) : (b64Sextets (operandA 4 8 q) i).toNat = v i :=
    (toNat_b64Sextets _ i).trans (alphabetValue_eq_some (hchar i)).1.symm
  have hlt (i : Fin 4) : (b64Sextets (operandA 4 8 q) i).toNat < 64 :=
    (hsextet i).trans_lt (alphabetValue_eq_some (hchar i)).2
  have hvalid : b64Valid (operandA 4 8 q) = true := (b64Valid_eq_true_iff _).mpr fun i => Option.isSome_of_mem (hchar i)
  refine ⟨_, answers_b64chunk hq, by rw [toNat_chunkResult_div, hvalid]; rfl, ?_⟩
  calc (List.range 3).map (fun j => BitVec.ofNat 8 (laneOf 8 (chunkResult (b64Out (operandA 4 8 q)) _) j))
      = List.ofFn (fun k : Fin 3 => BitVec.ofNat 8 (laneOf 8 (chunkResult (b64Out (operandA 4 8 q)) _) k)) := rfl
    _ = List.ofFn (b64Out (operandA 4 8 q)) := by simp only [laneOf_chunkResult, BitVec.ofNat_toNat, BitVec.setWidth_eq]
    _ = _ := by rw [ofFn_b64Out_eq_threeBytes _ hlt, hsextet, hsextet, hsextet, hsextet]; rfl

/-! ## The lane program P1 (95_test_vectors.md section 10) -/

/-- The result of a command that gives a vector of the vectors on its two buses. -/
theorem resultOf_of_vectors {i : Instr} {n w m x p y : Nat} (op : Lanes n w → Lanes m x → Lanes p y)
    (hexec : ∀ s, exec i s = answer s fun q => vectorResponse (op (operandA n w q) (operandB m x q))) {a b : Bus}
    {u : Lanes n w} {v : Lanes m x} (ha : unpack n w a = u) (hb : unpack m x b = v) :
    resultOf i a b = some (pack (op u v)) := by
  rw [resultOf, hexec, answer_of_inFlight rfl, ← ha, ← hb]
  rfl

/-- The tables on their buses (R48 to R51, R76). -/
theorem unpack_offsetTable : unpack 8 8 0xB9B9BFBF041310FF = offsetTable := by decide
theorem unpack_loLut : unpack 16 8 0x1A1B1B1B1A1311111111111111111115 = loLut := by decide
theorem unpack_hiLut : unpack 16 8 0x10101010101010100804080402011010 = hiLut := by decide
theorem unpack_shiftAmt : unpack 4 8 0x08060402 = shiftAmt := by decide
theorem unpack_outPattern : unpack 4 8 0x04020100 = outPattern 4 := by decide

/-- A program goes on with the result of its first command. -/
theorem bind_eq_of_eq_some {α β : Type} {x : Option α} {f : α → Option β} {a : α} {y : Option β} (hx : x = some a)
    (hf : f a = y) : (x >>= f) = y := by
  rw [hx]
  exact hf

/-- The commands of P1 on the first bus compute the steps R201 to R212, one after another. -/
theorem chunkProgram_eq (ascii : Bus) :
    chunkProgram ascii = some (pack (swizzle (b64Decoded (unpack 4 8 ascii)) (outPattern 4)),
      BitVec.ofNat 256 (reduceOr (b64Mask (unpack 4 8 ascii))).toNat) := by
  have hbyte (v : Lanes 4 8) : unpack 4 8 (pack v) = v := unpack_pack v (by decide) (by decide)
  have hror (v : Lanes 4 8) : resultOf (.ror .n4 .u8) (pack v) 0 = some (BitVec.ofNat 256 (reduceOr v).toNat) := by
    rw [resultOf_of_operandA (n := 4) (w := 8) (fun v => scalarResponse (reduceOr v).toNat) (fun _ => rfl), hbyte]
    rfl
  unfold chunkProgram
  refine bind_eq_of_eq_some (resultOf_of_vector b64Hi (fun _ => rfl) ascii 0) ?_
  refine bind_eq_of_eq_some (resultOf_of_vector (compareEq · slash) (fun _ => rfl) ascii 0) ?_
  refine bind_eq_of_eq_some (resultOf_pack boolToU8 (fun _ => rfl) (by decide) (by decide) _ 0) ?_
  refine bind_eq_of_eq_some (resultOf_of_vectors laneSub (fun _ => rfl) (hbyte _) (hbyte _)) ?_
  refine bind_eq_of_eq_some (resultOf_of_vectors swizzle (fun _ => rfl) unpack_offsetTable (hbyte _)) ?_
  refine bind_eq_of_eq_some (resultOf_of_vectors laneAdd (fun _ => rfl) rfl (hbyte _)) ?_
  refine bind_eq_of_eq_some (resultOf_of_vector (laneAndScalar · 0x0F) (fun _ => rfl) ascii 0) ?_
  refine bind_eq_of_eq_some (resultOf_of_vectors swizzle (fun _ => rfl) unpack_loLut (hbyte _)) ?_
  refine bind_eq_of_eq_some (resultOf_of_vectors swizzle (fun _ => rfl) unpack_hiLut (hbyte _)) ?_
  refine bind_eq_of_eq_some (resultOf_of_vectors laneAnd (fun _ => rfl) (hbyte _) (hbyte _)) ?_
  refine bind_eq_of_eq_some (hror _) ?_
  refine bind_eq_of_eq_some
    (resultOf_of_vectors (fun u v => shiftLeftBy (laneWiden u) v) (fun _ => rfl) (hbyte _) unpack_shiftAmt) ?_
  refine bind_eq_of_eq_some (resultOf_pack laneNarrow (fun _ => rfl) (by decide) (by decide) _ 0) ?_
  refine bind_eq_of_eq_some (resultOf_pack (shiftRight · 8) (fun _ => rfl) (by decide) (by decide) _ 0) ?_
  refine bind_eq_of_eq_some (resultOf_pack laneNarrow (fun _ => rfl) (by decide) (by decide) _ 0) ?_
  refine bind_eq_of_eq_some (resultOf_pack (rotate · 1) (fun _ => rfl) (by decide) (by decide) _ 0) ?_
  refine bind_eq_of_eq_some (resultOf_of_vectors laneOr (fun _ => rfl) (hbyte _) (hbyte _)) ?_
  refine bind_eq_of_eq_some (resultOf_of_vectors swizzle (fun _ => rfl) (hbyte _) unpack_outPattern) ?_
  rfl

/-- The first three lanes that P1 gathers are the bytes of the chunk: a lane of `OUT_PATTERN` does not depend on how many there
are (R212, C7). -/
theorem unpack_gathered (ascii : Lanes 4 8) : unpack 3 8 (pack (swizzle (b64Decoded ascii) (outPattern 4))) = b64Out ascii := by
  funext k
  exact congrFun (unpack_pack (swizzle (b64Decoded ascii) (outPattern 4)) (by decide) (by decide)) k.castSucc

/-- Buses that hold the same lanes agree as numbers below the end of those lanes (R41). -/
theorem mod_eq_of_unpack_eq {n w : Nat} (hw : 0 < w) {a b : Bus} (h : unpack n w a = unpack n w b) :
    a.toNat % 2 ^ (n * w) = b.toNat % 2 ^ (n * w) := by
  rw [← toNat_pack_unpack n w hw a, h, toNat_pack_unpack n w hw b]

/-- A byte put on a bus keeps its bits. -/
theorem ofNat_toNat_eq_zero_iff (x : Byte) : BitVec.ofNat 256 x.toNat = 0 ↔ x = 0 := by
  have := x.isLt
  rw [BitVec.toNat_eq, BitVec.toNat_eq, BitVec.toNat_ofNat, Nat.mod_eq_of_lt (by omega)]
  rfl

/-- Settles O43: `chunkProgram_eq`, and R read as its bytes and its valid bit. -/
theorem chunkCommandEqualsItsLaneProgram : Obligations.ChunkCommandEqualsItsLaneProgram := by
  intro ascii
  refine ⟨_, _, _, chunkProgram_eq ascii, resultOf_b64chunk ascii 0, ?bytes, ?valid⟩
  case bytes => exact mod_eq_of_unpack_eq (n := 3) (by decide) ((unpack_chunkResult _ _).trans (unpack_gathered _).symm)
  case valid =>
    have hvalid : b64Valid (unpack 4 8 ascii) = true ↔ BitVec.ofNat 256 (reduceOr (b64Mask (unpack 4 8 ascii))).toNat = 0 :=
      beq_iff_eq.trans (ofNat_toNat_eq_zero_iff _).symm
    rw [toNat_chunkResult_div, toNat_bool_of_iff hvalid, mul_ite, mul_one, mul_zero]

/-! ## B64DECODE (R220 to R224) -/

theorem answers_b64decode (len : BitVec 16) {s : State} {q : Request} (hq : s.inFlight = some q) :
    Answers (.b64decode len) s (b64BufferResponse q.payload) :=
  answers_of_inFlight (fun q => b64BufferResponse q.payload) rfl hq

/-- Settles O44: the buffer decoder is the reference decoder, and 16 bits can hold the number of its bytes. -/
theorem bufferDecodeMatchesTheReference : Obligations.BufferDecodeMatchesTheReference := by
  intro len s q hq
  have hanswers := answers_b64decode len hq
  rw [b64BufferResponse_eq] at hanswers
  refine ⟨hasWord_fieldsOfInstr (.b64decode len), _, hanswers, ?_⟩
  cases href : referenceDecode q.payload with
  | none => exact toNat_bufferResult false 0 (by decide)
  | some decoded =>
    exact toNat_bufferResult true _ (Nat.lt_of_le_of_lt (length_le_of_referenceDecode href) (payload_length_lt q))

/-! ## The chunks of a payload (R221) -/

/-- Block k of a list of blocks of `n` elements. -/
theorem take_drop_flatMap_ofFn {α β : Type} {n : Nat} (f : α → Fin n → β) (xs : List α) {k : Nat} (hk : k < xs.length) :
    ((xs.flatMap fun x => List.ofFn (f x)).drop (n * k)).take n = List.ofFn (f xs[k]) := by
  induction xs generalizing k with
  | nil => exact absurd hk (Nat.not_lt_zero k)
  | cons x xs ih =>
    rw [List.flatMap_cons]
    cases k with
    | zero => simp
    | succ k =>
      have hdrop (ys : List β) : (List.ofFn (f x) ++ ys).drop (n * (k + 1)) = ys.drop (n * k) := by
        rw [Nat.mul_succ, Nat.add_comm, ← List.drop_drop, List.drop_left' List.length_ofFn]
      rw [hdrop, ih (Nat.lt_of_succ_lt_succ hk), List.getElem_cons_succ]

/-- A payload of whole chunks is its chunks in a row (R221 step 3). -/
theorem flatMap_ofFn_chunksOf (bytes : List Byte) (hlen : bytes.length % 4 = 0) :
    (chunksOf bytes).flatMap (fun c => List.ofFn c) = bytes := by
  induction bytes using chunksOf.induct with
  | case1 a b c d rest ih =>
    have hrest : rest.length % 4 = 0 := (Nat.add_mod_right rest.length 4).symm.trans hlen
    rw [chunksOf_cons, List.flatMap_cons, ih hrest]
    rfl
  | case2 bytes hshort =>
    match bytes with
    | [] => rfl
    | [_] | [_, _] | [_, _, _] => simp at hlen
    | a :: b :: c :: d :: rest => exact absurd rfl (hshort a b c d rest)

theorem length_eq_of_chunksOf (bytes : List Byte) (hlen : bytes.length % 4 = 0) :
    bytes.length = 4 * (chunksOf bytes).length := by
  conv_lhs => rw [← flatMap_ofFn_chunksOf bytes hlen]
  simp [List.length_flatMap, Nat.mul_comm]

/-- Every character of a chunk is one of the payload's. -/
theorem mem_of_mem_chunksOf {bytes : List Byte} (hlen : bytes.length % 4 = 0) {chunk : Lanes 4 8} (hchunk : chunk ∈ chunksOf bytes)
    (i : Fin 4) : chunk i ∈ bytes := by
  rw [← flatMap_ofFn_chunksOf bytes hlen]
  exact List.mem_flatMap.mpr ⟨chunk, hchunk, List.mem_ofFn.mpr ⟨i, rfl⟩⟩

/-- The chunks of a payload of characters of the alphabet are valid (R207). -/
theorem b64Valid_of_mem_chunksOf {bytes : List Byte} (hlen : bytes.length % 4 = 0)
    (halphabet : ∀ c ∈ bytes, alphabetValue c.toNat ≠ none) {chunk : Lanes 4 8} (hchunk : chunk ∈ chunksOf bytes) :
    b64Valid chunk = true :=
  (b64Valid_eq_true_iff_ne_none chunk).mpr fun i => halphabet _ (mem_of_mem_chunksOf hlen hchunk i)

/-- Such a payload is decoded to the bytes of its chunks in a row (R221 step 4). -/
theorem payload_b64BufferResponse {bytes : List Byte} (hlen : bytes.length % 4 = 0)
    (halphabet : ∀ c ∈ bytes, alphabetValue c.toNat ≠ none) :
    (b64BufferResponse bytes).payload = (chunksOf bytes).flatMap fun c => List.ofFn (b64Out c) := by
  have hvalid : (chunksOf bytes).all b64Valid = true :=
    List.all_eq_true.mpr fun chunk hchunk => b64Valid_of_mem_chunksOf hlen halphabet hchunk
  rw [b64BufferResponse_eq, referenceDecode_eq, if_pos ⟨hlen, hvalid⟩]
  rfl

/-- An element of a block by its place in the block. -/
theorem getD_of_take_drop_eq_ofFn {α : Type} {n m : Nat} {xs : List α} {block : Fin n → α}
    (h : (xs.drop m).take n = List.ofFn block) (j : Fin n) (d : α) : xs.getD (m + j) d = block j := by
  rw [List.getD_eq_getElem?_getD, ← List.getElem?_drop, ← List.getElem?_take_of_lt j.isLt, h]
  simp

/-- Settles O46: both sides are cut into blocks, one for each chunk. -/
theorem bufferDecodeConcatenatesItsChunks : Obligations.BufferDecodeConcatenatesItsChunks := by
  intro len s q hq hlen halphabet
  have hcount := length_eq_of_chunksOf q.payload hlen
  have hpayload := payload_b64BufferResponse hlen halphabet
  refine ⟨_, answers_b64decode len hq, ?_, fun c hc => ?_⟩
  · rw [hpayload, length_flatMap_b64Out, hcount]
    omega
  · have hchunk : c < (chunksOf q.payload).length := by omega
    have hchars : (q.payload.drop (4 * c)).take 4 = List.ofFn (chunksOf q.payload)[c] := by
      conv_lhs => rw [← flatMap_ofFn_chunksOf q.payload hlen]
      exact take_drop_flatMap_ofFn (fun chunk => chunk) _ hchunk
    have hvalid : b64Valid (chunksOf q.payload)[c] = true :=
      b64Valid_of_mem_chunksOf hlen halphabet (List.getElem_mem hchunk)
    refine ⟨_, resultOf_b64chunk _ 0, ?_⟩
    rw [hchars, ← pack, unpack_pack _ (by decide) (by decide), hvalid]
    refine ⟨toNat_chunkResult_valid _ true, fun j hj => ?_⟩
    rw [hpayload, getD_of_take_drop_eq_ofFn (take_drop_flatMap_ofFn b64Out _ hchunk) ⟨j, hj⟩]
    exact (laneOf_chunkResult _ true ⟨j, hj⟩).symm

end Sys2Proof.Machine
end

section
/-! The IPv4 parser (46_ipv4.md): what each step computes of the string, by characters and fields (R231 to R252), and the record
that the command answers (R260 to R265). -/

namespace Sys2Proof.Machine

/-! ## The padded buffer (R230, R232) -/

/-- The buffer `c` is the string `chars`, padded with zero bytes: what the steps after the length gate work on (R232). -/
structure IsPadded (c : Lanes 16 8) (chars : List Nat) : Prop where
  length_le : chars.length ≤ 15
  toNat_eq : ∀ i : Fin 16, (c i).toNat = chars[i.val]?.getD 0

theorem length_charsOf (a : Bus) (len : Nat) : (charsOf a len).length = len := by
  rw [charsOf, List.length_map, List.length_range]

theorem getElem?_charsOf (a : Bus) (len i : Nat) :
    (charsOf a len)[i]? = if i < len then some (laneOf 8 a i) else none := by
  rw [charsOf, List.getElem?_map]
  split
  case isTrue hi => rw [List.getElem?_range hi, Option.map_some]
  case isFalse hi => rw [List.getElem?_eq_none (List.length_range ▸ Nat.le_of_not_lt hi), Option.map_none]

theorem forall_mem_charsOf_iff (a : Bus) (len : Nat) (p : Nat → Prop) :
    (∀ x ∈ charsOf a len, p x) ↔ ∀ j, j < len → p (laneOf 8 a j) := by
  simp [charsOf]

/-- The buffer that the length gate lets pass is the string on bus A, padded (R232). -/
theorem isPadded_ip4Pad {len : Nat} (hlen : len ≤ 15) (a : Bus) :
    IsPadded (ip4Pad len (unpack 16 8 a)) (charsOf a len) where
  length_le := (length_charsOf a len).trans_le hlen
  toNat_eq i := by
    rw [ip4Pad, getElem?_charsOf]
    split
    case isTrue => exact toNat_unpack a i
    case isFalse => rfl

/-- The pad hides every lane at position `len` and above (R232). -/
theorem ip4Pad_unpack_eq {len : Nat} {a a' : Bus} (h : a.toNat % 2 ^ (8 * len) = a'.toNat % 2 ^ (8 * len)) :
    ip4Pad len (unpack 16 8 a) = ip4Pad len (unpack 16 8 a') := by
  have hlane (b : Bus) {i : Nat} (hi : i < len) : laneOf 8 b i = b.toNat % 2 ^ (8 * len) / 2 ^ (8 * i) % 2 ^ 8 := by
    rw [laneOf, show 8 * len = 8 * i + (8 * len - 8 * i) by omega, Nat.pow_add, Nat.mod_mul_right_div_self,
      Nat.mod_mod_of_dvd _ (Nat.pow_dvd_pow 2 (by omega))]
  funext i
  rw [ip4Pad, ip4Pad]
  split
  case isTrue hi =>
    refine BitVec.eq_of_toNat_eq ?_
    rw [toNat_unpack, toNat_unpack, hlane a hi, hlane a' hi, h]
  case isFalse => rfl

/-! ## Characters (R233 to R237) -/

theorem or_eq_one_iff (x y : BitVec 1) : x ||| y = 1 ↔ x = 1 ∨ y = 1 := by
  revert x y
  decide

theorem and_eq_one_iff (x y : BitVec 1) : x &&& y = 1 ↔ x = 1 ∧ y = 1 := by
  revert x y
  decide

theorem not_eq_one_iff (x : BitVec 1) : ~~~x = 1 ↔ ¬ x = 1 := by
  revert x
  decide

theorem ip4IsDigit_eq_one_iff (c : Lanes 16 8) (i : Fin 16) : ip4IsDigit c i = 1 ↔ IsDigit (c i).toNat := by
  have hlane : (ip4IsDigit c i).toNat = if IsDigit (c i).toNat then 1 else 0 := toNat_digitLanes c i
  rw [← BitVec.toNat_inj, hlane]
  split
  case isTrue hdigit => exact iff_of_true rfl hdigit
  case isFalse hdigit => exact iff_of_false Nat.zero_ne_one hdigit

theorem ip4IsPad_eq_one_iff (len : Nat) (c : Lanes 16 8) (i : Fin 16) :
    ip4IsPad len c i = 1 ↔ (c i).toNat = 0 ∧ len ≤ i.val := by
  have hofBool (b : Bool) : BitVec.ofBool b = 1 ↔ b = true := by cases b <;> decide
  rw [ip4IsPad, laneAnd_apply, and_eq_one_iff, compareEq_eq_one, hofBool, decide_eq_true_iff]
  rfl

section PaddedString

variable {c : Lanes 16 8} {chars : List Nat}

theorem ip4IsDot_eq_one_iff (hc : IsPadded c chars) (i : Fin 16) : ip4IsDot c i = 1 ↔ chars[i.val]? = some 0x2E := by
  rw [ip4IsDot, compareEq_eq_one, hc.toNat_eq, show dot.toNat = 0x2E by rfl]
  cases chars[i.val]? <;> simp

/-- A position is valid when the string has ended or holds a digit or a dot there (R234). -/
theorem ip4IsValid_eq_one_iff (hc : IsPadded c chars) (i : Fin 16) :
    ip4IsValid chars.length c i = 1 ↔ ∀ x, chars[i.val]? = some x → IsDigitOrDot x := by
  rw [ip4IsValid, laneOr_apply, laneOr_apply, or_eq_one_iff, or_eq_one_iff, ip4IsDot_eq_one_iff hc, ip4IsDigit_eq_one_iff,
    ip4IsPad_eq_one_iff, hc.toNat_eq]
  cases hchar : chars[i.val]? with
  | none => simp [List.getElem?_eq_none_iff.mp hchar]
  | some x =>
    have hi : ¬ chars.length ≤ i.val := fun hle => nomatch (List.getElem?_eq_none hle).symm.trans hchar
    simp [hi, or_comm]

theorem reduceAll_ip4IsValid (hc : IsPadded c chars) :
    reduceAll (ip4IsValid chars.length c) = true ↔ ∀ x ∈ chars, IsDigitOrDot x := by
  rw [reduceAll_eq_true]
  simp only [ip4IsValid_eq_one_iff hc]
  constructor
  · intro hvalid x hx
    obtain ⟨i, hi, hchar⟩ := List.getElem_of_mem hx
    exact hvalid ⟨i, by have := hc.length_le; omega⟩ x (List.getElem?_eq_some_iff.mpr ⟨hi, hchar⟩)
  · exact fun hvalid i x hchar => hvalid x (List.mem_of_getElem? hchar)

theorem sum_range_getElem?_eq_count (x : Nat) (xs : List Nat) {n : Nat} (hn : xs.length ≤ n) :
    (∑ i ∈ Finset.range n, if xs[i]? = some x then 1 else 0) = xs.count x := by
  induction xs generalizing n with
  | nil => simp
  | cons y ys ih =>
    cases n with
    | zero => exact absurd hn (Nat.not_succ_le_zero _)
    | succ n =>
      rw [Finset.sum_range_succ', List.count_cons, ← ih (Nat.le_of_succ_le_succ hn)]
      simp

/-- The dots are counted exactly (R237). -/
theorem reduceSum_ip4IsDot (hc : IsPadded c chars) : reduceSum (ip4IsDot c) = chars.count 0x2E := by
  rw [reduceSum_eq, ← sum_range_getElem?_eq_count 0x2E chars (n := 16) (by have := hc.length_le; omega),
    ← Fin.sum_univ_eq_sum_range (fun i => if chars[i]? = some 0x2E then 1 else 0)]
  exact Finset.sum_congr rfl fun i _ => toNat_bool_eq_ite (ip4IsDot_eq_one_iff hc i)

end PaddedString

/-! ## The positions of the dots (R239 to R241) -/

/-- Clearing the lowest set bit clears that bit and no other (R16). -/
theorem testBit_and_sub_one {x k : Nat} (hset : x.testBit k = true) (hclear : ∀ j, j < k → x.testBit j = false) (i : Nat) :
    (x &&& (x - 1)).testBit i = (x.testBit i && decide (i ≠ k)) := by
  obtain ⟨hdvd, hodd⟩ := two_pow_dvd_and_odd_of_lowest_bit hset hclear
  obtain ⟨y, rfl⟩ := hdvd
  rw [Nat.mul_div_cancel_left _ (Nat.two_pow_pos k)] at hodd
  obtain ⟨z, rfl⟩ : ∃ z, y = 2 * z + 1 := ⟨y / 2, by omega⟩
  have hpred : 2 ^ k * (2 * z + 1) - 1 = 2 ^ k * (2 * z) + (2 ^ k - 1) := by
    have := Nat.two_pow_pos k
    rw [Nat.mul_add, Nat.mul_one]
    omega
  rw [Nat.testBit_and, hpred, Nat.testBit_two_pow_mul_add _ (Nat.sub_lt (Nat.two_pow_pos k) Nat.one_pos),
    Nat.testBit_two_pow_mul]
  rcases Nat.lt_trichotomy i k with hlt | rfl | hgt
  · simp [Nat.not_le.mpr hlt]
  · simp
  · obtain ⟨j, rfl⟩ : ∃ j, i = k + (j + 1) := ⟨i - k - 1, by omega⟩
    simp [Nat.testBit_succ, show (2 * z + 1) / 2 = z by omega]

theorem getLsbD_clearLowest {k d : Nat} {m : BitVec k} (hd : d < k) (hlow : tzcnt m = d) (i : Nat) :
    (clearLowest m).getLsbD i = (m.getLsbD i && decide (i ≠ d)) := by
  obtain ⟨hset, hclear⟩ := (tzcnt_eq_iff m d hd).mp hlow
  have hpos : 1 ≤ m.toNat := Nat.one_le_iff_ne_zero.mpr fun hzero => by
    rw [← BitVec.testBit_toNat, hzero, Nat.zero_testBit] at hset
    exact nomatch hset
  have hone : (1 : BitVec k).toNat = 1 :=
    (BitVec.toNat_ofNat 1 k).trans (Nat.mod_eq_of_lt (Nat.lt_of_le_of_lt hpos m.isLt))
  have hpred : (m - 1).toNat = m.toNat - 1 := by
    rw [BitVec.toNat_sub_of_le (BitVec.le_def.mpr (hone ▸ hpos)), hone]
  rw [clearLowest, ← BitVec.testBit_toNat, BitVec.toNat_and, hpred, testBit_and_sub_one hset hclear, BitVec.testBit_toNat]

/-- Taking the lowest set bit again and again gives the set bits in ascending order (R240). -/
theorem ip4DotPos_eq_of_bits {m : BitVec 16} {dots : List Nat} (hsorted : dots.Pairwise (· < ·)) (hlt : ∀ d ∈ dots, d < 16)
    (hbits : ∀ i, m.getLsbD i = true ↔ i ∈ dots) {k d : Nat} (hk : dots[k]? = some d) : ip4DotPos m k = d := by
  induction dots generalizing m k with
  | nil => exact nomatch hk
  | cons d0 rest ih =>
    obtain ⟨hfirst, hrest⟩ := List.pairwise_cons.mp hsorted
    have hlow : tzcnt m = d0 := by
      refine (tzcnt_eq_iff m d0 (hlt d0 List.mem_cons_self)).mpr ⟨(hbits d0).mpr List.mem_cons_self, fun i hi => ?_⟩
      refine Bool.eq_false_iff.mpr fun hbit => ?_
      obtain rfl | hmem := List.mem_cons.mp ((hbits i).mp hbit)
      · exact Nat.lt_irrefl i hi
      · exact Nat.lt_asymm hi (hfirst i hmem)
    cases k with
    | zero => exact hlow.trans (Option.some.inj hk)
    | succ k =>
      refine ih (m := clearLowest m) (k := k) hrest (fun d hd => hlt d (List.mem_cons_of_mem _ hd)) (fun i => ?_) hk
      rw [getLsbD_clearLowest (hlt d0 List.mem_cons_self) hlow, Bool.and_eq_true, hbits, List.mem_cons, decide_eq_true_iff]
      constructor
      · exact fun ⟨hi, hne⟩ => hi.resolve_left hne
      · exact fun hi => ⟨.inr hi, (hfirst i hi).ne'⟩

/-- Bit i of the bitmask of any vector that a bus can hold is lane i (R145). -/
theorem testBit_maskOf {n : Nat} (hn : n ≤ 256) (v : Lanes n 1) (i : Fin n) : (maskOf v).testBit i = true ↔ v i = 1 := by
  rw [← unpack_pack v Nat.one_pos ((Nat.mul_one n).trans_le hn)]
  exact testBit_maskOf_unpack (pack v) i

section PaddedString

variable {c : Lanes 16 8} {chars : List Nat}

/-- The dot mask has a bit for each dot of the string (R239). -/
theorem getLsbD_ip4DotMask (hc : IsPadded c chars) (i : Nat) :
    (ip4DotMask c).getLsbD i = true ↔ i ∈ chars.idxsOf 0x2E := by
  have hmem : i ∈ chars.idxsOf 0x2E ↔ chars[i]? = some 0x2E := by
    rw [List.mem_idxsOf_iff_exists_getElem_pos, List.getElem?_eq_some_iff]
    simp only [beq_iff_eq]
  have := hc.length_le
  rw [hmem, ip4DotMask, BitVec.getLsbD_ofNat, Bool.and_eq_true, decide_eq_true_iff]
  by_cases hi : i < 16
  · rw [testBit_maskOf (by decide) (ip4IsDot c) ⟨i, hi⟩, ip4IsDot_eq_one_iff hc]
    exact and_iff_right hi
  · have hend : chars[i]? = none := List.getElem?_eq_none (by omega)
    simp [hi, hend]

/-- The dot positions of the pipeline are those of the string (R241). -/
theorem ip4DotPos_ip4DotMask (hc : IsPadded c chars) {k d : Nat} (hk : (chars.idxsOf 0x2E)[k]? = some d) :
    ip4DotPos (ip4DotMask c) k = d := by
  refine ip4DotPos_eq_of_bits List.pairwise_idxsOf (fun d hd => ?_) (getLsbD_ip4DotMask hc) hk
  have := List.lt_add_of_mem_idxsOf d hd
  have := hc.length_le
  omega

end PaddedString

/-! ## Fields joined by dots (R242) -/

theorem fieldStart_zero (fields : List (List Nat)) : fieldStart fields 0 = 0 := rfl

theorem fieldStart_cons_succ (f : List Nat) (fields : List (List Nat)) (k : Nat) :
    fieldStart (f :: fields) (k + 1) = f.length + 1 + fieldStart fields k := by
  rw [fieldStart, List.take_succ_cons, List.map_cons, List.sum_cons, fieldStart]

/-- Each field starts one past the dot that ends the field before it. -/
theorem fieldStart_succ {fields : List (List Nat)} {k : Nat} {f : List Nat} (hk : fields[k]? = some f) :
    fieldStart fields (k + 1) = fieldStart fields k + f.length + 1 := by
  rw [fieldStart, List.take_add_one, hk]
  simp [fieldStart, Nat.add_assoc]

/-- What stands before and after field k in the joined string; nothing stands after the last. -/
theorem exists_intercalate_eq (x : Nat) {fields : List (List Nat)} {k : Nat} {f : List Nat} (hk : fields[k]? = some f) :
    ∃ before after, List.intercalate [x] fields = before ++ f ++ after ∧ before.length = fieldStart fields k ∧
      (k + 1 = fields.length → after = []) := by
  induction fields generalizing k with
  | nil => exact nomatch hk
  | cons f0 rest ih =>
    cases rest with
    | nil =>
      obtain ⟨rfl, rfl⟩ : k = 0 ∧ f0 = f := by
        cases k with
        | zero => exact ⟨rfl, Option.some.inj hk⟩
        | succ k => exact nomatch hk
      exact ⟨[], [], by simp [List.intercalate_singleton], rfl, fun _ => rfl⟩
    | cons f1 rest =>
      rw [List.intercalate_cons_cons]
      cases k with
      | zero =>
        obtain rfl : f0 = f := Option.some.inj hk
        exact ⟨[], [x] ++ List.intercalate [x] (f1 :: rest), by simp, rfl, fun h => nomatch Nat.succ.inj h⟩
      | succ k =>
        obtain ⟨before, after, hjoin, hbefore, hlast⟩ := ih hk
        refine ⟨f0 ++ [x] ++ before, after, by simp [hjoin], ?_, fun h => hlast (Nat.succ.inj h)⟩
        rw [fieldStart_cons_succ, ← hbefore]
        simp
        omega

/-- Dots end the fields, all but the last, and stand nowhere else. -/
theorem getElem?_idxsOf_intercalate {x : Nat} {fields : List (List Nat)} (hfree : ∀ f ∈ fields, x ∉ f) {k : Nat} {f : List Nat}
    (hk : fields[k]? = some f) (hlast : k + 1 < fields.length) (s : Nat) :
    ((List.intercalate [x] fields).idxsOf x s)[k]? = some (s + (fieldStart fields k + f.length)) := by
  induction fields generalizing k s with
  | nil => exact nomatch hk
  | cons f0 rest ih =>
    cases rest with
    | nil => exact absurd (Nat.lt_of_succ_lt_succ hlast) (Nat.not_lt_zero k)
    | cons f1 rest =>
      have hnone : f0.idxsOf x s = [] := by
        refine List.idxsOf_eq_nil_iff.mpr fun y hy => beq_eq_false_iff_ne.mpr ?_
        exact fun hyx => hfree f0 List.mem_cons_self (hyx ▸ hy)
      have hdots : (List.intercalate [x] (f0 :: f1 :: rest)).idxsOf x s
          = (s + f0.length) :: (List.intercalate [x] (f1 :: rest)).idxsOf x (s + f0.length + 1) := by
        rw [List.intercalate_cons_cons, List.append_assoc, List.idxsOf_append, hnone]
        simp
      rw [hdots]
      cases k with
      | zero =>
        obtain rfl : f0 = f := Option.some.inj hk
        simp [fieldStart_zero]
      | succ k =>
        rw [List.getElem?_cons_succ, ih (fun g hg => hfree g (List.mem_cons_of_mem _ hg)) hk (Nat.lt_of_succ_lt_succ hlast),
          fieldStart_cons_succ]
        congr 1
        omega

theorem count_intercalate {x : Nat} {fields : List (List Nat)} (hfree : ∀ f ∈ fields, x ∉ f) :
    (List.intercalate [x] fields).count x = fields.length - 1 := by
  induction fields with
  | nil => rfl
  | cons f0 rest ih =>
    have hnone : f0.count x = 0 := List.count_eq_zero.mpr (hfree f0 List.mem_cons_self)
    cases rest with
    | nil => rw [List.intercalate_singleton, hnone]; rfl
    | cons f1 rest =>
      rw [List.intercalate_cons_cons, List.count_append, List.count_append, hnone,
        ih fun g hg => hfree g (List.mem_cons_of_mem _ hg)]
      simp
      omega

theorem eq_or_mem_of_mem_intercalate {x y : Nat} {fields : List (List Nat)} (hy : y ∈ List.intercalate [x] fields) :
    y = x ∨ ∃ f ∈ fields, y ∈ f := by
  induction fields with
  | nil => exact nomatch hy
  | cons f0 rest ih =>
    cases rest with
    | nil =>
      rw [List.intercalate_singleton] at hy
      exact .inr ⟨f0, List.mem_cons_self, hy⟩
    | cons f1 rest =>
      rw [List.intercalate_cons_cons, List.mem_append, List.mem_append, List.mem_singleton] at hy
      obtain (hy | rfl) | hy := hy
      · exact .inr ⟨f0, List.mem_cons_self, hy⟩
      · exact .inl rfl
      · exact (ih hy).imp_right fun ⟨f, hf, hyf⟩ => ⟨f, List.mem_cons_of_mem _ hf, hyf⟩

/-- Every string of digits and dots is fields of digits joined by dots, one more of them than there are dots. -/
theorem exists_fields {chars : List Nat} (hchars : ∀ x ∈ chars, IsDigitOrDot x) :
    ∃ fields : List (List Nat), fields.length = chars.count 0x2E + 1 ∧ (∀ f ∈ fields, ∀ x ∈ f, IsDigit x) ∧
      chars = List.intercalate [0x2E] fields := by
  induction chars with
  | nil => exact ⟨[[]], rfl, by simp, rfl⟩
  | cons x chars ih =>
    obtain ⟨hx, hrest⟩ := List.forall_mem_cons.mp hchars
    obtain ⟨fields, hlen, hdigits, hjoin⟩ := ih hrest
    obtain ⟨f, rest, rfl⟩ := List.exists_cons_of_length_eq_add_one hlen
    obtain hdigit | rfl := hx
    · have hne : x ≠ 0x2E := by omega
      obtain ⟨hf, hothers⟩ := List.forall_mem_cons.mp hdigits
      refine ⟨(x :: f) :: rest, by rw [List.count_cons_of_ne hne, ← hlen]; rfl, ?_, ?_⟩
      · exact List.forall_mem_cons.mpr ⟨List.forall_mem_cons.mpr ⟨hdigit, hf⟩, hothers⟩
      · rw [hjoin]
        cases rest with
        | nil => simp [List.intercalate_singleton]
        | cons g rest => simp [List.intercalate_cons_cons]
    · refine ⟨[] :: f :: rest, by rw [List.count_cons_self, ← hlen]; rfl, ?_, ?_⟩
      · exact List.forall_mem_cons.mpr ⟨fun x hx => (nomatch hx), hdigits⟩
      · rw [hjoin, List.intercalate_cons_cons]
        rfl

theorem not_mem_dot_of_digits {f : List Nat} (hf : ∀ x ∈ f, IsDigit x) : 0x2E ∉ f :=
  fun hdot => absurd (hf _ hdot) (by decide)

section FourFields

variable {chars : List Nat} {fields : List (List Nat)}

theorem isDigitOrDot_of_fourFields (hf : FourFields chars fields) : ∀ x ∈ chars, IsDigitOrDot x := by
  obtain ⟨-, hdigits, rfl⟩ := hf
  intro x hx
  obtain rfl | ⟨f, hf, hxf⟩ := eq_or_mem_of_mem_intercalate hx
  · exact .inr rfl
  · exact .inl (hdigits f hf x hxf)

theorem count_dot_of_fourFields (hf : FourFields chars fields) : chars.count 0x2E = 3 := by
  obtain ⟨hlen, hdigits, rfl⟩ := hf
  rw [count_intercalate fun f hf => not_mem_dot_of_digits (hdigits f hf), hlen]

/-- Three dots in a string of digits and dots make four fields (R242). -/
theorem exists_fourFields (hchars : ∀ x ∈ chars, IsDigitOrDot x) (hdots : chars.count 0x2E = 3) :
    ∃ fields, FourFields chars fields := by
  obtain ⟨fields, hlen, hfields⟩ := exists_fields hchars
  exact ⟨fields, hlen.trans (congrArg (· + 1) hdots), hfields⟩

theorem getElem?_idxsOf_of_fourFields (hf : FourFields chars fields) {k : Nat} {f : List Nat} (hk : fields[k]? = some f)
    (hlast : k < 3) : (chars.idxsOf 0x2E)[k]? = some (fieldStart fields k + f.length) := by
  obtain ⟨hlen, hdigits, rfl⟩ := hf
  rw [getElem?_idxsOf_intercalate (fun f hf => not_mem_dot_of_digits (hdigits f hf)) hk (by omega), Nat.zero_add]

/-- A field ends within the string, the last one at its end. -/
theorem fieldStart_add_length_le (hf : FourFields chars fields) {k : Nat} {f : List Nat} (hk : fields[k]? = some f) :
    fieldStart fields k + f.length ≤ chars.length ∧ (k = 3 → fieldStart fields k + f.length = chars.length) := by
  obtain ⟨hlen, -, hjoin⟩ := hf
  obtain ⟨before, after, hsplit, hbefore, hlast⟩ := exists_intercalate_eq 0x2E hk
  have hlength : chars.length = before.length + f.length + after.length := by
    rw [hjoin, hsplit, List.length_append, List.length_append]
  refine ⟨by omega, fun h3 => ?_⟩
  rw [hlast (by omega), List.length_nil] at hlength
  omega

/-- The characters of a field are those of the string from the field's start on. -/
theorem getElem?_fieldStart_add (hf : FourFields chars fields) {k : Nat} {f : List Nat} (hk : fields[k]? = some f) {j : Nat}
    (hj : j < f.length) : chars[fieldStart fields k + j]? = f[j]? := by
  obtain ⟨-, -, hjoin⟩ := hf
  obtain ⟨before, after, hsplit, hbefore, -⟩ := exists_intercalate_eq 0x2E hk
  rw [hjoin, hsplit, ← hbefore, List.append_assoc, List.getElem?_append_right (Nat.le_add_right _ _), Nat.add_sub_cancel_left,
    List.getElem?_append_left hj]

end FourFields

/-! ## The lanes of the fields (R242 to R250) -/

/-- The digit of a field that stands `j` places before its last; 0 where the field has none (R247). -/
def placeDigit (f : List Nat) (j : Nat) : Nat := f.reverse[j]?.getD 0x30 - 0x30

theorem placeDigit_of_length_le {f : List Nat} {j : Nat} (hj : f.length ≤ j) : placeDigit f j = 0 := by
  rw [placeDigit, List.getElem?_eq_none (by rwa [List.length_reverse])]
  rfl

theorem placeDigit_le_nine {f : List Nat} (hf : ∀ x ∈ f, IsDigit x) (j : Nat) : placeDigit f j ≤ 9 := by
  rw [placeDigit]
  cases hx : f.reverse[j]? with
  | none => exact Nat.zero_le 9
  | some x =>
    have := hf x (List.mem_reverse.mp (List.mem_of_getElem? hx))
    show x - 0x30 ≤ 9
    omega

/-- A field of good length is one, two or three characters. -/
theorem goodLength_cases {f : List Nat} (hgood : GoodLength f) :
    (∃ x, f = [x]) ∨ (∃ x y, f = [x, y]) ∨ ∃ x y z, f = [x, y, z] := by
  match f with
  | [] => exact absurd hgood (by decide)
  | [x] => exact .inl ⟨x, rfl⟩
  | [x, y] => exact .inr (.inl ⟨x, y, rfl⟩)
  | [x, y, z] => exact .inr (.inr ⟨x, y, z, rfl⟩)
  | _ :: _ :: _ :: _ :: _ =>
    simp only [GoodLength, List.length_cons] at hgood
    omega

/-- The value of a field by the digits of its three places (R248). -/
theorem fieldValue_eq_placeDigits {f : List Nat} (hgood : GoodLength f) :
    fieldValue f = placeDigit f 2 * 100 + placeDigit f 1 * 10 + placeDigit f 0 := by
  obtain ⟨x, rfl⟩ | ⟨x, y, rfl⟩ | ⟨x, y, z, rfl⟩ := goodLength_cases hgood
  all_goals simp [fieldValue, placeDigit]
  all_goals omega

/-- A leading zero is a zero at the top place of a field of two or three characters (R249). -/
theorem leadingZero_iff_placeDigit {f : List Nat} (hgood : GoodLength f) (hf : ∀ x ∈ f, IsDigit x) :
    LeadingZero f ↔ f.length = 2 ∧ placeDigit f 1 = 0 ∨ f.length = 3 ∧ placeDigit f 2 = 0 := by
  obtain ⟨x, rfl⟩ | ⟨x, y, rfl⟩ | ⟨x, y, z, rfl⟩ := goodLength_cases hgood
  all_goals
    have hx := hf x List.mem_cons_self
    simp [LeadingZero, placeDigit]
  all_goals omega

section FieldLanes

variable {c : Lanes 16 8} {chars : List Nat} {fields : List (List Nat)} {k : Fin 4} {f : List Nat}

theorem exists_field (hf : FourFields chars fields) (k : Fin 4) : ∃ f, fields[k.val]? = some f :=
  ⟨_, List.getElem?_eq_getElem (k.isLt.trans_eq hf.1.symm)⟩

/-- A field begins and ends in the string, so its bounds are small numbers. -/
theorem fieldStart_add_length_le_fifteen (hc : IsPadded c chars) (hf : FourFields chars fields)
    (hk : fields[k.val]? = some f) : fieldStart fields k + f.length ≤ 15 :=
  (fieldStart_add_length_le hf hk).1.trans hc.length_le

theorem toNat_ip4End (hc : IsPadded c chars) (hf : FourFields chars fields) (hk : fields[k.val]? = some f) :
    (ip4End chars.length c k).toNat = fieldStart fields k + f.length := by
  have hle := fieldStart_add_length_le_fifteen hc hf hk
  have hend : ip4End chars.length c k = BitVec.ofNat 8 (fieldStart fields k + f.length) := by
    have hdot (hlast : k.val < 3) : ip4DotPos (ip4DotMask c) k = fieldStart fields k + f.length :=
      ip4DotPos_ip4DotMask hc (getElem?_idxsOf_of_fourFields hf hk hlast)
    match k with
    | 0 | 1 | 2 => exact congrArg (BitVec.ofNat 8) (hdot (by decide))
    | 3 => exact congrArg (BitVec.ofNat 8) ((fieldStart_add_length_le hf hk).2 rfl).symm
  rw [hend, BitVec.toNat_ofNat, Nat.mod_eq_of_lt (by omega)]

/-- A field that is not the first starts one past the dot before it (R242). -/
theorem ip4Start_succ (c : Lanes 16 8) (j : Fin 3) : ip4Start c j.succ = BitVec.ofNat 8 (ip4DotPos (ip4DotMask c) j + 1) := by
  fin_cases j <;> rfl

theorem toNat_ip4Start (hc : IsPadded c chars) (hf : FourFields chars fields) (k : Fin 4) :
    (ip4Start c k).toNat = fieldStart fields k := by
  cases k using Fin.cases with
  | zero => rfl
  | succ j =>
    obtain ⟨g, hg⟩ := exists_field hf j.castSucc
    have hle := fieldStart_add_length_le_fifteen hc hf hg
    have hdot : ip4DotPos (ip4DotMask c) j = fieldStart fields j + g.length :=
      ip4DotPos_ip4DotMask hc (getElem?_idxsOf_of_fourFields hf hg j.isLt)
    rw [ip4Start_succ, hdot, BitVec.toNat_ofNat, Fin.val_succ, fieldStart_succ (k := j) hg]
    exact Nat.mod_eq_of_lt (Nat.lt_of_le_of_lt (Nat.succ_le_succ hle) (by decide))

/-- No length wraps (R242). -/
theorem toNat_ip4Flen (hc : IsPadded c chars) (hf : FourFields chars fields) (hk : fields[k.val]? = some f) :
    (ip4Flen chars.length c k).toNat = f.length := by
  have hle := fieldStart_add_length_le_fifteen hc hf hk
  rw [ip4Flen, toNat_laneSub, toNat_ip4End hc hf hk, toNat_ip4Start hc hf]
  omega

theorem ip4BadLen_eq_one_iff (hc : IsPadded c chars) (hf : FourFields chars fields) (hk : fields[k.val]? = some f) :
    ip4BadLen chars.length c k = 1 ↔ ¬ GoodLength f := by
  rw [ip4BadLen, laneOr_apply, or_eq_one_iff, compareEq_eq_one, compareGt_eq_one, toNat_ip4Flen hc hf hk,
    show (0 : BitVec 16).toNat = 0 by rfl, show (3 : BitVec 16).toNat = 3 by rfl]
  omega

/-- The gather stays in its own field, so what it reads is a digit (R246). -/
theorem toNat_ip4Gather (hc : IsPadded c chars) (hf : FourFields chars fields) (hk : fields[k.val]? = some f) {j : Nat}
    (hj : j < f.length) : (ip4Gather (j + 1) chars.length c k).toNat = placeDigit f j := by
  have hle := fieldStart_add_length_le_fifteen hc hf hk
  have hindex : (laneSubScalar (ip4End chars.length c) (BitVec.ofNat 8 (j + 1)) k).toNat
      = fieldStart fields k + (f.length - 1 - j) := by
    rw [toNat_laneSubScalar, toNat_ip4End hc hf hk, BitVec.toNat_ofNat]
    omega
  have hchar : chars[fieldStart fields k + (f.length - 1 - j)]? = f.reverse[j]? := by
    rw [getElem?_fieldStart_add hf hk (by omega), List.getElem?_reverse hj]
  obtain ⟨x, hx⟩ : ∃ x, f.reverse[j]? = some x := ⟨_, List.getElem?_eq_getElem (by rwa [List.length_reverse])⟩
  have hdigit : IsDigit x := hf.2.1 f (List.mem_of_getElem? hk) x (List.mem_reverse.mp (List.mem_of_getElem? hx))
  have hread : (swizzle c (laneSubScalar (ip4End chars.length c) (BitVec.ofNat 8 (j + 1))) k).toNat = x := by
    rw [swizzle_apply, dif_pos (by omega), hc.toNat_eq]
    simp only [hindex, hchar, hx, Option.getD_some]
  rw [ip4Gather, toNat_laneSubScalar, hread, placeDigit, hx, Option.getD_some, toNat_scalarOf, show digit0.toNat = 0x30 by rfl]
  omega

theorem toNat_ip4D0 (hc : IsPadded c chars) (hf : FourFields chars fields) (hk : fields[k.val]? = some f)
    (hgood : GoodLength f) : (ip4D0 chars.length c k).toNat = placeDigit f 0 :=
  toNat_ip4Gather hc hf hk hgood.1

theorem toNat_ip4D1 (hc : IsPadded c chars) (hf : FourFields chars fields) (hk : fields[k.val]? = some f) :
    (ip4D1 chars.length c k).toNat = placeDigit f 1 := by
  rw [ip4D1, toNat_ip4Flen hc hf hk]
  split
  case isTrue hlen => exact toNat_ip4Gather hc hf hk hlen
  case isFalse hlen => exact (placeDigit_of_length_le (by omega)).symm

theorem toNat_ip4D2 (hc : IsPadded c chars) (hf : FourFields chars fields) (hk : fields[k.val]? = some f)
    (hgood : GoodLength f) : (ip4D2 chars.length c k).toNat = placeDigit f 2 := by
  rw [ip4D2, toNat_ip4Flen hc hf hk]
  split
  case isTrue hlen => exact toNat_ip4Gather hc hf hk (by omega)
  case isFalse hlen => exact (placeDigit_of_length_le (by omega)).symm

/-- 16 bits hold every value of three digits (R248). -/
theorem toNat_ip4Value (hc : IsPadded c chars) (hf : FourFields chars fields) (hk : fields[k.val]? = some f)
    (hgood : GoodLength f) : (ip4Value chars.length c k).toNat = fieldValue f := by
  have hdigits := hf.2.1 f (List.mem_of_getElem? hk)
  have h0 := placeDigit_le_nine hdigits 0
  have h1 := placeDigit_le_nine hdigits 1
  have h2 := placeDigit_le_nine hdigits 2
  rw [ip4Value, toNat_laneAdd, toNat_laneAdd, toNat_laneMulScalar, toNat_laneMulScalar, toNat_laneWiden, toNat_laneWiden,
    toNat_laneWiden, toNat_ip4D2 hc hf hk hgood, toNat_ip4D1 hc hf hk, toNat_ip4D0 hc hf hk hgood,
    show (100 : BitVec 16).toNat = 100 by rfl, show (10 : BitVec 16).toNat = 10 by rfl, fieldValue_eq_placeDigits hgood]
  omega

theorem ip4LeadingZero_eq_one_iff (hc : IsPadded c chars) (hf : FourFields chars fields) (hk : fields[k.val]? = some f)
    (hgood : GoodLength f) : ip4LeadingZero chars.length c k = 1 ↔ LeadingZero f := by
  rw [ip4LeadingZero, laneOr_apply, laneAnd_apply, laneAnd_apply, or_eq_one_iff, and_eq_one_iff, and_eq_one_iff,
    compareEq_eq_one, compareEq_eq_one, compareEq_eq_one, compareEq_eq_one, toNat_ip4Flen hc hf hk, toNat_ip4D1 hc hf hk,
    toNat_ip4D2 hc hf hk hgood, leadingZero_iff_placeDigit hgood (hf.2.1 f (List.mem_of_getElem? hk))]
  rfl

/-- The failing fields are those that are not good octets (R250). -/
theorem ip4Fail_eq_one_iff (hc : IsPadded c chars) (hf : FourFields chars fields) (hk : fields[k.val]? = some f)
    (hgood : GoodLength f) : ip4Fail chars.length c k = 1 ↔ ¬ GoodOctet f := by
  rw [ip4Fail, laneOr_apply, or_eq_one_iff, ip4LeadingZero_eq_one_iff hc hf hk hgood, ip4Big, compareGt_eq_one,
    toNat_ip4Value hc hf hk hgood, show (255 : BitVec 16).toNat = 255 by rfl, not_and_or, not_not, Nat.not_le]

end FieldLanes

/-! ## The outcomes of the checks (R235 to R253) -/

theorem laneAt_val {n w : Nat} (v : Lanes n w) (i : Fin n) : laneAt v i = v i := dif_pos i.isLt

section Outcomes

variable {c : Lanes 16 8} {chars : List Nat} {fields : List (List Nat)} {k : Fin 4} {f : List Nat}

/-- The first character that is neither a digit nor a dot is the first invalid position: the pad has none (R236). -/
theorem ip4Check_of_unexpectedChar (hc : IsPadded c chars) {p : Fin 16} {x : Nat} (hp : chars[p.val]? = some x)
    (hx : ¬ IsDigitOrDot x) (hbefore : ∀ j y, j < p.val → chars[j]? = some y → IsDigitOrDot y) :
    ip4Check chars.length c = { kind := .unexpectedChar, pos := BitVec.ofNat 4 p, len := 1, char := c p } := by
  have hfirst : findFirstSet (laneNot (ip4IsValid chars.length c)) = p := by
    refine (findFirstSet_eq_iff _ p).mpr ⟨?_, fun j hj => ?_⟩
    · rw [laneNot_apply, not_eq_one_iff, ip4IsValid_eq_one_iff hc]
      exact fun hvalid => hx (hvalid x hp)
    · rw [laneNot_apply, ne_eq, not_eq_one_iff, not_not, ip4IsValid_eq_one_iff hc]
      exact fun y hy => hbefore j y hj hy
  have hinvalid : reduceAll (ip4IsValid chars.length c) = false :=
    Bool.eq_false_iff.mpr fun hall => hx ((reduceAll_ip4IsValid hc).mp hall x (List.mem_of_getElem? hp))
  rw [ip4Check, if_pos hinvalid, ip4CharRecord, hfirst, laneAt_val]

theorem ip4Check_of_wrongDotCount (hc : IsPadded c chars) (hchars : ∀ x ∈ chars, IsDigitOrDot x)
    (hdots : chars.count 0x2E ≠ 3) : ip4Check chars.length c = { kind := .invalidDotCount } := by
  rw [ip4Check, if_neg (by simpa using (reduceAll_ip4IsValid hc).mpr hchars), reduceSum_ip4IsDot hc, if_pos hdots]

/-- A vector that marks the fields without a property has a true lane exactly when not all fields have it. -/
theorem reduceAny_eq_true_iff_not_forall_field (hf : FourFields chars fields) {v : Lanes 4 1} {p : List Nat → Prop}
    (hv : ∀ (k : Fin 4) (f : List Nat), fields[k.val]? = some f → (v k = 1 ↔ ¬ p f)) :
    reduceAny v = true ↔ ¬ ∀ f ∈ fields, p f := by
  rw [reduceAny_eq_true]
  constructor
  · rintro ⟨k, hmark⟩ hall
    obtain ⟨f, hk⟩ := exists_field hf k
    exact (hv k f hk).mp hmark (hall f (List.mem_of_getElem? hk))
  · intro hnot
    push Not at hnot
    obtain ⟨f, hmem, hlacks⟩ := hnot
    obtain ⟨k, hlt, hk⟩ := List.mem_iff_getElem.mp hmem
    exact ⟨⟨k, hf.1 ▸ hlt⟩, (hv _ f (List.getElem?_eq_some_iff.mpr ⟨hlt, hk⟩)).mpr hlacks⟩

/-- Its first true lane is the lowest-numbered field that lacks the property (R244, R252). -/
theorem findFirstSet_eq_of_first_field (hf : FourFields chars fields) {v : Lanes 4 1} {p : List Nat → Prop}
    (hv : ∀ (k : Fin 4) (f : List Nat), fields[k.val]? = some f → (v k = 1 ↔ ¬ p f)) (hk : fields[k.val]? = some f)
    (hnot : ¬ p f) (hbefore : ∀ j g, j < k.val → fields[j]? = some g → p g) : findFirstSet v = k := by
  refine (findFirstSet_eq_iff v k).mpr ⟨(hv k f hk).mpr hnot, fun j hj hmark => ?_⟩
  obtain ⟨g, hg⟩ := exists_field hf j
  exact (hv j g hg).mp hmark (hbefore j g hj hg)

theorem reduceAny_ip4BadLen (hc : IsPadded c chars) (hf : FourFields chars fields) :
    reduceAny (ip4BadLen chars.length c) = true ↔ ¬ ∀ f ∈ fields, GoodLength f :=
  reduceAny_eq_true_iff_not_forall_field hf fun _ _ hk => ip4BadLen_eq_one_iff hc hf hk

theorem ip4Fail_marks (hc : IsPadded c chars) (hf : FourFields chars fields) (hgood : ∀ g ∈ fields, GoodLength g)
    (k : Fin 4) (f : List Nat) (hk : fields[k.val]? = some f) : ip4Fail chars.length c k = 1 ↔ ¬ GoodOctet f :=
  ip4Fail_eq_one_iff hc hf hk (hgood f (List.mem_of_getElem? hk))

theorem reduceAny_ip4Fail (hc : IsPadded c chars) (hf : FourFields chars fields) (hgood : ∀ g ∈ fields, GoodLength g) :
    reduceAny (ip4Fail chars.length c) = true ↔ ¬ ∀ f ∈ fields, GoodOctet f :=
  reduceAny_eq_true_iff_not_forall_field hf (ip4Fail_marks hc hf hgood)

/-- Four fields of digits pass the character check and the dot count, so the fields decide (R238). -/
theorem ip4Check_of_fourFields (hc : IsPadded c chars) (hf : FourFields chars fields) :
    ip4Check chars.length c =
      if reduceAny (ip4BadLen chars.length c) then
        ip4FieldRecord .invalidFieldLength chars.length c (findFirstSet (ip4BadLen chars.length c))
      else if reduceAny (ip4Fail chars.length c) then
        ip4FieldRecord
          (if laneAt (ip4LeadingZero chars.length c) (findFirstSet (ip4Fail chars.length c)) = 1 then .leadingZero
            else .valueTooLarge)
          chars.length c (findFirstSet (ip4Fail chars.length c))
      else { kind := .none, octets := ip4Octets chars.length c } := by
  have hvalid := (reduceAll_ip4IsValid hc).mpr (isDigitOrDot_of_fourFields hf)
  have hdots := (reduceSum_ip4IsDot hc).trans (count_dot_of_fourFields hf)
  rw [ip4Check, if_neg (by rw [hvalid]; decide), if_neg (not_not.mpr hdots)]

theorem ip4Check_of_badLength (hc : IsPadded c chars) (hf : FourFields chars fields) (hk : fields[k.val]? = some f)
    (hbad : ¬ GoodLength f) (hbefore : ∀ j g, j < k.val → fields[j]? = some g → GoodLength g) :
    ip4Check chars.length c = ip4FieldRecord .invalidFieldLength chars.length c k := by
  have hfirst : findFirstSet (ip4BadLen chars.length c) = k :=
    findFirstSet_eq_of_first_field hf (fun _ _ hj => ip4BadLen_eq_one_iff hc hf hj) hk hbad hbefore
  rw [ip4Check_of_fourFields hc hf, if_pos ((reduceAny_ip4BadLen hc hf).mpr fun hall => hbad (hall f (List.mem_of_getElem? hk))),
    hfirst]

theorem ip4Check_of_failingField (hc : IsPadded c chars) (hf : FourFields chars fields) (hgood : ∀ g ∈ fields, GoodLength g)
    (hk : fields[k.val]? = some f) (hfail : ¬ GoodOctet f)
    (hbefore : ∀ j g, j < k.val → fields[j]? = some g → GoodOctet g) :
    ip4Check chars.length c
      = ip4FieldRecord (if LeadingZero f then .leadingZero else .valueTooLarge) chars.length c k := by
  have hmem := List.mem_of_getElem? hk
  have hfirst : findFirstSet (ip4Fail chars.length c) = k :=
    findFirstSet_eq_of_first_field hf (ip4Fail_marks hc hf hgood) hk hfail hbefore
  rw [ip4Check_of_fourFields hc hf, if_neg fun hany => (reduceAny_ip4BadLen hc hf).mp hany hgood,
    if_pos ((reduceAny_ip4Fail hc hf hgood).mpr fun hall => hfail (hall f hmem)), hfirst, laneAt_val]
  simp only [ip4LeadingZero_eq_one_iff hc hf hk (hgood f hmem)]

theorem ip4Check_of_goodOctets (hc : IsPadded c chars) (hf : FourFields chars fields)
    (hgood : ∀ g ∈ fields, GoodLength g ∧ GoodOctet g) :
    ip4Check chars.length c = { kind := .none, octets := ip4Octets chars.length c } := by
  have hlengths : ∀ g ∈ fields, GoodLength g := fun g hg => (hgood g hg).1
  have hoctets : ∀ g ∈ fields, GoodOctet g := fun g hg => (hgood g hg).2
  rw [ip4Check_of_fourFields hc hf, if_neg fun hany => (reduceAny_ip4BadLen hc hf).mp hany hlengths,
    if_neg fun hany => (reduceAny_ip4Fail hc hf hlengths).mp hany hoctets]

/-- The check answers without an error only when no check fails (R253), so exactly on the dotted quads (R265). -/
theorem ip4Check_kind_eq_none_iff (hc : IsPadded c chars) :
    (ip4Check chars.length c).kind = .none ↔
      ∃ fields, FourFields chars fields ∧ ∀ f ∈ fields, GoodLength f ∧ GoodOctet f := by
  constructor
  · intro hnone
    unfold ip4Check at hnone
    split at hnone
    case isTrue => exact nomatch hnone
    case isFalse hvalid =>
    split at hnone
    case isTrue => exact nomatch hnone
    case isFalse hdots =>
    split at hnone
    case isTrue => exact nomatch hnone
    case isFalse hlengths =>
    split at hnone
    case isTrue =>
      rw [ip4FieldRecord] at hnone
      split at hnone <;> exact nomatch hnone
    case isFalse hoctets =>
    rw [Bool.not_eq_false, reduceAll_ip4IsValid hc] at hvalid
    rw [not_not, reduceSum_ip4IsDot hc] at hdots
    obtain ⟨fields, hf⟩ := exists_fourFields hvalid hdots
    rw [reduceAny_ip4BadLen hc hf, not_not] at hlengths
    rw [reduceAny_ip4Fail hc hf hlengths, not_not] at hoctets
    exact ⟨fields, hf, fun f hmem => ⟨hlengths f hmem, hoctets f hmem⟩⟩
  · rintro ⟨fields, hf, hgood⟩
    rw [ip4Check_of_goodOctets hc hf hgood]

end Outcomes

/-! ## The record on R (R262, R263) -/

section Records

variable {c : Lanes 16 8} {chars : List Nat} {fields : List (List Nat)} {k : Fin 4} {f : List Nat}

/-- The error kind stands in R[34:32] (R262). -/
theorem toNat_ip4Result_kind (x : Ip4Record) : (ip4Result x).toNat / 2 ^ 32 % 8 = (ip4ErrorCode x.kind).toNat := by
  have hoctets := x.octets.isLt
  have hkind := (ip4ErrorCode x.kind).isLt
  rw [toNat_ip4Result, recordWord]
  omega

theorem toNat_ip4ErrorCode_eq_zero_iff (kind : Ip4Error) : (ip4ErrorCode kind).toNat = 0 ↔ kind = .none := by
  cases kind <;> decide

/-- The locator of a field is its number, start and length, which fit their places in the record (R263). -/
theorem toNat_ip4Result_ip4FieldRecord (hc : IsPadded c chars) (hf : FourFields chars fields) (hk : fields[k.val]? = some f)
    (kind : Ip4Error) :
    (ip4Result (ip4FieldRecord kind chars.length c k)).toNat
      = recordWord 0 (ip4ErrorCode kind).toNat (fieldStart fields k) f.length k 0 := by
  have hle := fieldStart_add_length_le_fifteen hc hf hk
  have hpos : ((laneAt (ip4Start c) k).setWidth 4).toNat = fieldStart fields k := by
    rw [laneAt_val, BitVec.toNat_setWidth, toNat_ip4Start hc hf, Nat.mod_eq_of_lt (by omega)]
  have hlen : ((laneAt (ip4Flen chars.length c) k).setWidth 4).toNat = f.length := by
    rw [laneAt_val, BitVec.toNat_setWidth, toNat_ip4Flen hc hf hk, Nat.mod_eq_of_lt (by omega)]
  have hfield : (BitVec.ofNat 2 k.val).toNat = k := by
    rw [BitVec.toNat_ofNat, Nat.mod_eq_of_lt k.isLt]
  rw [toNat_ip4Result]
  simp only [ip4FieldRecord, hpos, hlen, hfield]
  rfl

/-- Four bytes on a bus as one number (R41). -/
theorem toNat_pack_four_bytes (v : Lanes 4 8) :
    (pack v).toNat = (v 0).toNat + 2 ^ 8 * (v 1).toNat + 2 ^ 16 * (v 2).toNat + 2 ^ 24 * (v 3).toNat := by
  have hlt : (pack v).toNat < 2 ^ 32 := pack_lt v (by decide)
  have hlane (i : Fin 4) : (pack v).toNat / 2 ^ (8 * i.val) % 2 ^ 8 = (v i).toNat := laneOf_pack v (by decide) (by decide) i
  have h0 : (pack v).toNat / 2 ^ 0 % 2 ^ 8 = (v 0).toNat := hlane 0
  have h1 : (pack v).toNat / 2 ^ 8 % 2 ^ 8 = (v 1).toNat := hlane 1
  have h2 : (pack v).toNat / 2 ^ 16 % 2 ^ 8 = (v 2).toNat := hlane 2
  have h3 : (pack v).toNat / 2 ^ 24 % 2 ^ 8 = (v 3).toNat := hlane 3
  omega

/-- The octets are the values of the fields, since each is at most 255 (R251). -/
theorem toNat_ip4Octets {f0 f1 f2 f3 : List Nat} (hc : IsPadded c chars) (hf : FourFields chars [f0, f1, f2, f3])
    (hgood : ∀ g ∈ [f0, f1, f2, f3], GoodLength g ∧ GoodOctet g) :
    (ip4Octets chars.length c).toNat
      = fieldValue f0 + 2 ^ 8 * fieldValue f1 + 2 ^ 16 * fieldValue f2 + 2 ^ 24 * fieldValue f3 := by
  have hoctet {k : Fin 4} {f : List Nat} (hk : [f0, f1, f2, f3][k.val]? = some f) :
      (laneNarrow (ip4Value chars.length c) k).toNat = fieldValue f := by
    obtain ⟨hlen, -, hvalue⟩ := hgood f (List.mem_of_getElem? hk)
    rw [toNat_laneNarrow, toNat_ip4Value hc hf hk hlen, Nat.mod_eq_of_lt (by omega)]
  have hlt : (pack (laneNarrow (ip4Value chars.length c))).toNat < 2 ^ 32 := pack_lt _ (by decide)
  rw [ip4Octets, BitVec.toNat_setWidth, Nat.mod_eq_of_lt hlt, toNat_pack_four_bytes, hoctet (k := 0) rfl,
    hoctet (k := 1) rfl, hoctet (k := 2) rfl, hoctet (k := 3) rfl]

/-- Four fields of good length and their dots are 7 to 15 characters (R265). -/
theorem length_of_goodLengths (hf : FourFields chars fields) (hgood : ∀ g ∈ fields, GoodLength g) :
    7 ≤ chars.length ∧ chars.length ≤ 15 := by
  obtain ⟨g0, h0⟩ := exists_field hf 0
  obtain ⟨g1, h1⟩ := exists_field hf 1
  obtain ⟨g2, h2⟩ := exists_field hf 2
  obtain ⟨g3, h3⟩ := exists_field hf 3
  obtain ⟨hlo0, hhi0⟩ := hgood g0 (List.mem_of_getElem? h0)
  obtain ⟨hlo1, hhi1⟩ := hgood g1 (List.mem_of_getElem? h1)
  obtain ⟨hlo2, hhi2⟩ := hgood g2 (List.mem_of_getElem? h2)
  obtain ⟨hlo3, hhi3⟩ := hgood g3 (List.mem_of_getElem? h3)
  have hlength : fieldStart fields 3 + g3.length = chars.length := (fieldStart_add_length_le hf h3).2 rfl
  have hstart1 : fieldStart fields 1 = fieldStart fields 0 + g0.length + 1 := fieldStart_succ h0
  have hstart2 : fieldStart fields 2 = fieldStart fields 1 + g1.length + 1 := fieldStart_succ h1
  have hstart3 : fieldStart fields 3 = fieldStart fields 2 + g2.length + 1 := fieldStart_succ h2
  rw [fieldStart_zero] at hstart1
  omega

end Records

/-! ## The command (R260) -/

theorem answers_ip4parse (len : BitVec 16) {s : State} {q : Request} (hq : s.inFlight = some q) :
    Answers (.ip4parse len) s
      { status := .ok, r := ip4Result (ip4Parse len.toNat (operandA 16 8 q)), payload := [] } :=
  answers_of_inFlight (fun q => okResponse (ip4Result (ip4Parse len.toNat (operandA 16 8 q)))) rfl hq

theorem ip4Parse_of_length {len : Nat} (hlen : len < 7 ∨ 15 < len) (buf : Lanes 16 8) :
    ip4Parse len buf = { kind := .tooShortOrLong } := by
  rw [ip4Parse, if_pos hlen]

/-- Past the length gate the command is the checks on the padded string (R231, R232). -/
theorem exists_isPadded_ip4Parse_eq {len : Nat} (h7 : 7 ≤ len) (h15 : len ≤ 15) (q : Request) :
    ∃ c, IsPadded c (charsOf q.a len) ∧ ip4Parse len (operandA 16 8 q) = ip4Check (charsOf q.a len).length c := by
  refine ⟨_, isPadded_ip4Pad h15 q.a, ?_⟩
  rw [ip4Parse, if_neg (by omega), length_charsOf]
  rfl

/-- A claim about the record on R follows from the checks on the padded string. -/
theorem answersScalar_of_ip4Check {len : BitVec 16} {s : State} {q : Request} {x : Nat} (hq : s.inFlight = some q)
    (h7 : 7 ≤ len.toNat) (h15 : len.toNat ≤ 15)
    (hcheck : ∀ c, IsPadded c (charsOf q.a len.toNat) →
      (ip4Result (ip4Check (charsOf q.a len.toNat).length c)).toNat = x) :
    AnswersScalar (.ip4parse len) s x := by
  obtain ⟨c, hc, hparse⟩ := exists_isPadded_ip4Parse_eq h7 h15 q
  exact ⟨_, answers_ip4parse len hq, hparse ▸ hcheck c hc⟩

/-- Settles O47. -/
theorem lengthGateRejects : Obligations.LengthGateRejects := by
  intro len s q hq hlen
  refine ⟨_, answers_ip4parse len hq, ?_⟩
  rw [ip4Parse_of_length hlen, toNat_ip4Result]
  rfl

/-- Settles O48. -/
theorem unexpectedCharacterIsLocated : Obligations.UnexpectedCharacterIsLocated := by
  intro len s q p hq h7 h15 hp hx hbefore
  have hchar {j : Nat} (hj : j < len.toNat) : (charsOf q.a len.toNat)[j]? = some (laneOf 8 q.a j) := by
    rw [getElem?_charsOf, if_pos hj]
  refine answersScalar_of_ip4Check hq h7 h15 fun c hc => ?_
  have hcheck := ip4Check_of_unexpectedChar hc (p := ⟨p, by omega⟩) (hchar hp) hx fun j y hj hy => by
    obtain rfl := Option.some.inj ((hchar (hj.trans hp)).symm.trans hy)
    exact hbefore j hj
  have hbyte : (c ⟨p, by omega⟩).toNat = laneOf 8 q.a p := by
    rw [hc.toNat_eq, hchar hp, Option.getD_some]
  have hpos : (BitVec.ofNat 4 p).toNat = p := by
    rw [BitVec.toNat_ofNat, Nat.mod_eq_of_lt (by omega)]
  rw [hcheck, toNat_ip4Result, hbyte, hpos]
  rfl

/-- Settles O49. -/
theorem wrongDotCountRejects : Obligations.WrongDotCountRejects := by
  intro len s q hq h7 h15 hchars hdots
  refine answersScalar_of_ip4Check hq h7 h15 fun c hc => ?_
  rw [ip4Check_of_wrongDotCount hc ((forall_mem_charsOf_iff _ _ _).mpr hchars) hdots, toNat_ip4Result]
  rfl

theorem lt_four_of_fourFields {chars f : List Nat} {fields : List (List Nat)} {k : Nat} (hf : FourFields chars fields)
    (hk : fields[k]? = some f) : k < 4 := by
  obtain ⟨hlt, -⟩ := List.getElem?_eq_some_iff.mp hk
  exact hf.1 ▸ hlt

/-- Settles O50. -/
theorem badFieldLengthIsLocated : Obligations.BadFieldLengthIsLocated := by
  intro len s q fields k f hq h7 h15 hf hk hbad hbefore
  have hlt := lt_four_of_fourFields hf hk
  refine answersScalar_of_ip4Check hq h7 h15 fun c hc => ?_
  rw [ip4Check_of_badLength (k := ⟨k, hlt⟩) hc hf hk hbad hbefore, toNat_ip4Result_ip4FieldRecord hc hf hk]
  rfl

/-- Settles O51: good lengths pass the length gate. -/
theorem failingFieldIsLocated : Obligations.FailingFieldIsLocated := by
  intro len s q fields k f hq hf hgood hk hfail hbefore
  have hlt := lt_four_of_fourFields hf hk
  obtain ⟨h7, h15⟩ := length_of_goodLengths hf hgood
  rw [length_charsOf] at h7 h15
  refine answersScalar_of_ip4Check hq h7 h15 fun c hc => ?_
  rw [ip4Check_of_failingField (k := ⟨k, hlt⟩) hc hf hgood hk hfail hbefore, toNat_ip4Result_ip4FieldRecord hc hf hk]
  split <;> rfl

/-- Settles O52: good lengths pass the length gate. -/
theorem goodAddressGivesItsOctets : Obligations.GoodAddressGivesItsOctets := by
  intro len s q f0 f1 f2 f3 hq hf hgood
  obtain ⟨h7, h15⟩ := length_of_goodLengths hf fun g hg => (hgood g hg).1
  rw [length_charsOf] at h7 h15
  refine answersScalar_of_ip4Check hq h7 h15 fun c hc => ?_
  rw [ip4Check_of_goodOctets hc hf hgood, toNat_ip4Result, toNat_ip4Octets hc hf hgood]
  rfl

/-- Settles O53: a length that the gate rejects is no dotted quad's, and past the gate the checks accept the dotted quads. -/
theorem acceptsExactlyDottedQuads : Obligations.AcceptsExactlyDottedQuads := by
  intro len s q hq
  refine ⟨hasWord_fieldsOfInstr (.ip4parse len), _, answers_ip4parse len hq, ?_⟩
  rw [toNat_ip4Result_kind, toNat_ip4ErrorCode_eq_zero_iff]
  by_cases hlen : len.toNat < 7 ∨ 15 < len.toNat
  · rw [ip4Parse_of_length hlen]
    refine iff_of_false (fun hnone => nomatch hnone) fun ⟨fields, hf, hgood⟩ => ?_
    have hbounds := length_of_goodLengths hf fun g hg => (hgood g hg).1
    rw [length_charsOf] at hbounds
    omega
  · obtain ⟨c, hc, hparse⟩ := exists_isPadded_ip4Parse_eq (len := len.toNat) (by omega) (by omega) q
    rw [hparse]
    exact ip4Check_kind_eq_none_iff hc

/-- Settles O54: the parser reads the buffer through the pad only. -/
theorem bytesBeyondTheStringAreIgnored : Obligations.BytesBeyondTheStringAreIgnored := by
  intro len s q q' h
  have hparse : ip4Parse len.toNat (operandA 16 8 q) = ip4Parse len.toNat (operandA 16 8 q') := by
    rw [ip4Parse, ip4Parse, operandA, operandA, ip4Pad_unpack_eq h]
  exact ⟨_, answers_ip4parse len rfl, hparse ▸ answers_ip4parse len rfl⟩

end Sys2Proof.Machine
end

section
/-! The exceptions (60_exceptions.md): the illegal word (R301) and the failed buffer decode (R305). -/

namespace Sys2Proof.Machine

/-! ## The illegal word (R301) -/

/-- A word that is not legal has an error of the decoder (R74). -/
theorem exists_decode_eq_error_of_not_legalWord {cmd : Cmd} (h : ¬ LegalWord cmd) : ∃ e, decode cmd = .error e := by
  cases hdec : decode cmd with
  | ok i => exact absurd ((wordIsLegalExactlyByTheRules cmd).mp ⟨i, hdec⟩) h
  | error e => exact ⟨e, rfl⟩

/-- The step takes the exception when the word in flight does not decode, whatever the error (R301). -/
theorem step_of_decode_eq_error {s : State} {q : Request} {e : DecodeError} (hlow : s.resetAsserted = false)
    (hr : s.response = none) (hq : s.inFlight = some q) (hdec : decode q.cmd = .error e) :
    step s = .next (s.sampleReset.answered illegalResponse) := by
  rw [step_of_inFlight hlow hr hq, hdec]
  exact raiseIllegal_of_inFlight (s := s.sampleReset) hq

/-- Settles O6: an illegal word does not decode, and a word that does not decode takes the exception. -/
theorem illegalWordIsAnsweredIllegal : Obligations.IllegalWordIsAnsweredIllegal := by
  refine ⟨rfl, fun s q hlow hr hq hillegal => ?_⟩
  obtain ⟨e, hdec⟩ := exists_decode_eq_error_of_not_legalWord hillegal
  exact step_of_decode_eq_error (resetAsserted_eq_false_iff.mpr hlow) hr hq hdec

/-! ## The failed buffer decode (R305) -/

/-- The chunks of a whole payload are valid exactly when its characters are in the alphabet (R207). -/
theorem all_b64Valid_chunksOf_iff {bytes : List Byte} (hlen : bytes.length % 4 = 0) :
    (chunksOf bytes).all b64Valid = true ↔ ∀ c ∈ bytes, alphabetValue c.toNat ≠ none := by
  refine ⟨fun hall c hc => ?_, fun halphabet => List.all_eq_true.mpr fun chunk => b64Valid_of_mem_chunksOf hlen halphabet⟩
  rw [← flatMap_ofFn_chunksOf bytes hlen] at hc
  obtain ⟨chunk, hchunk, hc⟩ := List.mem_flatMap.mp hc
  obtain ⟨i, rfl⟩ := List.mem_ofFn.mp hc
  exact (b64Valid_eq_true_iff_ne_none chunk).mp (List.all_eq_true.mp hall chunk hchunk) i

/-- The two causes of a failed decode (R305): characters left over, or one outside the alphabet. -/
theorem referenceDecode_eq_none_iff (bytes : List Byte) :
    referenceDecode bytes = none ↔ bytes.length % 4 ≠ 0 ∨ ∃ c ∈ bytes, alphabetValue c.toNat = none := by
  rw [referenceDecode_eq]
  by_cases hlen : bytes.length % 4 = 0
  · simp [hlen, all_b64Valid_chunksOf_iff hlen]
  · simp [hlen]

/-- The empty payload is decoded to no bytes (R221 step 1). -/
theorem b64BufferResponse_nil : b64BufferResponse [] = okResponse 1 := rfl

/-- Settles O45: both causes make the buffer decoder fail, which is answered with nothing; the empty payload is decoded. -/
theorem failedBufferDecodeAnswersNothing : Obligations.FailedBufferDecodeAnswersNothing := by
  refine ⟨fun len s q hq hcause => ?_, fun len s q hq hempty => ?_⟩
  · have hanswers := answers_b64decode len hq
    have href := (referenceDecode_eq_none_iff q.payload).mpr hcause
    have hfail : b64DecodeBuffer q.payload = ([], false) := by rw [b64DecodeBuffer_eq, href]; rfl
    rw [b64BufferResponse_of_failure hfail] at hanswers
    exact hanswers
  · have hanswers := answers_b64decode len hq
    rw [hempty, b64BufferResponse_nil] at hanswers
    exact hanswers

end Sys2Proof.Machine
end

section
/-! Reset (70_reset_and_hazards.md): what it leaves of the block (R341), and the request that it abandons (R343). -/

namespace Sys2Proof.Machine

/-- Reset is asserted at this step when the line's sample is (R340). -/
theorem resetAsserted_eq_true_iff {s : State} : s.resetAsserted = true ↔ s.resetLine.head? = some true := by
  rw [← Bool.not_eq_false, resetAsserted_eq_false_iff, not_not]

/-- Settles O11. -/
theorem resetLeavesTheBlockIdle : Obligations.ResetLeavesTheBlockIdle :=
  ⟨State.reset_inFlight, State.reset_response, fun _ hhigh => step_of_reset (resetAsserted_eq_true_iff.mpr hhigh)⟩

/-- Settles O12: the first step is the reset, which delivers nothing; the block is then idle, and the three steps that serve
the repeat give it the response that it would get on its own (the steps are the model's, log 1 and log 3). -/
theorem abandonedRequestIsAnsweredWhenRepeated : Obligations.AbandonedRequestIsAnsweredWhenRepeated := by
  intro s q _ hreqs hline
  obtain ⟨resp, hresp, -⟩ := exists_respondsTo q
  have hreset : step s = .next s.sampleReset.landReset :=
    step_of_reset (resetAsserted_eq_true_iff.mpr (by rw [hline]; rfl))
  have hlow : s.sampleReset.landReset.resetLine = [] := congrArg List.tail hline
  have hserve := run_three_of_respondsTo (s := s.sampleReset.landReset) rfl rfl hlow hreqs hresp
  refine ⟨resp, hresp, ?_⟩
  rw [run_of_step hreset, hserve, State.landReset, State.sampleReset, hline]
  rfl

end Sys2Proof.Machine
end
